-- ==== Sys2Proof/Word.lean ====
section
/-!
DEFINITION. The word types of Fopra. All multi-byte quantities are little-endian and bit 0 is the
least significant bit (R7); the byte-order and bit-field operations are in Machine/Bits.lean.
-/
namespace Sys2Proof

/-- One byte: the smallest addressable unit of every memory of the device (R7). -/
abbrev Byte := BitVec 8

/-- A 32-bit register or mailbox field (R402, R409). -/
abbrev Word32 := BitVec 32

/-- A 64-bit register or argument word (R402, R423). -/
abbrev Word64 := BitVec 64

end Sys2Proof
end

