-- ==== Sys2Proof/Syntax.lean ====
section
/-!
DEFINITION. The commands of the block: one constructor of Instr per row of spec/opcode_table.json.
Mailbox commands name the mailbox that holds them; events carry what arrives from outside the device
(a time in ns on the model's clock, a flit, a notice, a measured value), as log 2 and log 20 say.
-/
namespace Sys2Proof

/-- The seven SerDes ports, in the order of Table 18.4 (R268). -/
inductive Port where
  | pxp | pxn | pyp | pyn | pzp | pzn | pt
  deriving DecidableEq, Repr

/-- The op engines of a core (Table 2.6); the CSQ executes its control ops itself. -/
inductive Engine where
  | mxu | vu | sfu | rsu | lwu | tmv
  deriving DecidableEq, Repr

/-- Which half of a 64-bit register an aligned access covers (R402). -/
inductive Half where
  | lo | hi | both
  deriving DecidableEq, Repr

/-- The main/backup pairs of Table 16.2. -/
inductive Pair where
  | vaon | vdram | vpp
  deriving DecidableEq, Repr

/-- The rails of Table 16.1 without a backup. -/
inductive Rail where
  | vcore | vsram | vfab | vddqM | vser | vserHi | vucie
  deriving DecidableEq, Repr

/-- A rail as the supply monitor sees it (R387). -/
inductive AnyRail where
  | rail (r : Rail)
  | main (p : Pair)
  | backup (p : Pair)
  deriving DecidableEq, Repr

/-- What the twin reports when TWIN_PAIR asks it (R354). -/
structure Peer where
  paired : Bool
  stepping : Bool
  member : Bool
  sameSilicon : Bool
  sameProfile : Bool
  sameDigests : Bool
  sameRouting : Bool
  journals : Bool
  deriving DecidableEq, Repr

/-- A knell notice (Table 14.5). -/
structure KnellMsg where
  obeat : Nat
  srcIdx : Nat
  srcKind : Nat
  fault : Nat
  cause : Nat
  origin : Nat
  cid : Nat
  epoch : Nat
  deriving DecidableEq, Repr

/-- A message descriptor (Table 12.6). -/
structure MsgDesc where
  addr : Nat
  space : Nat
  rcore : Fin 64
  score : Fin 64
  src : Nat
  sigEn : Bool
  side : Bool
  target : Fin 64
  count : Nat
  pair : Fin 64
  epoch : Nat
  deriving DecidableEq, Repr

/-- A window record (Table 12.7); `srcs` holds (member, ns) by descending sum. -/
structure WinRec where
  suffer : Nat
  halt : Nat
  member : Nat
  wbeat : Nat
  srcs : List (Nat × Nat)
  deriving DecidableEq, Repr

/-- A chunk on REDUCTION: plan flit header bits (Table 13.7) and chunk header (Table 13.6), with the
member that sent this hop, the poisoned element indices and the CRC-32C that follows the data. -/
structure ChunkMsg where
  pop : Nat
  down : Bool
  use : Nat
  chunk : Nat
  src : Nat
  epoch : Nat
  data : List Byte
  poison : List Nat
  crc : Nat
  deriving DecidableEq, Repr

/-- A chunk's name in CHUNK_ACK and CHUNK_NAK (R331). -/
structure ChunkRef where
  pop : Nat
  use : Nat
  chunk : Nat
  down : Bool
  src : Nat
  epoch : Nat
  deriving DecidableEq, Repr

/-- A member's answer for resolution (R340, R344). -/
structure Quiet where
  member : Nat
  epoch : Nat
  orig : Nat
  absorbed : Nat
  lce : Nat
  prepared : Option Nat
  deriving DecidableEq, Repr

/-- What the ROM check finds (R483, R466, R372). -/
structure RomResult where
  ok : Bool
  identity : Nat
  vmin : Nat
  deriving DecidableEq, Repr

/-- What training of one port finds (R287, R288). -/
inductive PortTrain where
  | full
  | degraded (upper : Bool) (lane : Nat)
  | miswired
  | laneMap
  | failed
  deriving DecidableEq, Repr

/-- What CALIBRATE and TRIM find: bond lanes below their limit, as (32 × stack + channel, lane) (R255), and what training
finds of the ports; several entries of one port are its attempts in order (R287). -/
structure TrimFinds where
  lanes : List (Nat × Nat)
  ports : List (Port × PortTrain)
  deriving DecidableEq, Repr

/-- Bit errors of the reduction memory that a combine meets: words with one wrong bit, corrected and counted, and whether a
word has two (R334). -/
structure MemUpset where
  fixed : Nat
  bad : Bool
  deriving DecidableEq, Repr

/-- An address of a SPACE (R80). -/
structure SpaceAddr where
  space : Nat
  addr : Nat
  deriving DecidableEq, Repr

/-- A CP state change of Table 15.3. -/
inductive CpChange where
  | patternLoad (image : List Byte)
  | rudimentLoad (pkg : List Byte)
  | patternStart
  | patternStop
  | policySet (key value : Nat)
  | lens (seq committed prov maxlen : Nat) (isOpen : Bool)
  | header (seq : Nat) (words : List Nat)
  | carillonRec (payload : List Byte)
  | quiesced
  | retired (epoch : Nat)
  deriving DecidableEq, Repr

/-- An operation of the test access port (R497). -/
inductive TapOp where
  | reset
  | shiftIr (code : Nat)
  | shiftDr (bits : List Bool)
  deriving DecidableEq, Repr

/-- Where a granule is arbitrated (R216): a DRAM channel of a stack, or the host interface. -/
inductive Arbiter where
  | channel (stack chan : Nat)
  | host
  deriving DecidableEq, Repr

/-- The commands and events of the block. `t` is a time in ns; `up` lists bit errors that stand in the
core store when the op reads it, as (64-bit lane, flipped bits). -/
inductive Instr where
  -- host registers and apertures
  | ownerWrite (n : Fin 64) (v : Word32) (mem : List (Nat × List Byte))
  | chimeStatusWrite (h : Half) (v : Word64)
  | chimeMaskWrite (h : Half) (v : Word64)
  | apertureBaseWrite (v : Word32)
  | supplyStatusWrite (v : Word32)
  | holdStatusWrite (v : Word32)
  | beatNumberLoRead
  | warmReg (v : Word32)
  | registerWrite (off : Nat) (data : List Byte)
  | bar2Read (off n : Nat)
  | bar2Write (off : Nat) (data : List Byte)
  | d3hot
  | i3cSetdasa (static dyn : BitVec 7)
  | i3cPrivateWrite (data : List Byte)
  | i3cPrivateRead (n : Nat)
  -- mailbox commands
  | info (n : Fin 64)
  | telemetry (n : Fin 64)
  | eventLogRead (n : Fin 64)
  | imageRead (n : Fin 64)
  | imageWrite (n : Fin 64)
  | imageCommit (n : Fin 64) (readBack : Nat)
  | imageRevert (n : Fin 64)
  | attest (n : Fin 64)
  | identityCert (n : Fin 64)
  | ownerKeySet (n : Fin 64)
  | patternLoad (n : Fin 64)
  | patternVerify (n : Fin 64)
  | patternStart (n : Fin 64)
  | patternStop (n : Fin 64)
  | rudimentLoad (n : Fin 64)
  | seqOpen (n : Fin 64)
  | seqAppend (n : Fin 64) (twinOk : Bool)
  | seqClose (n : Fin 64)
  | seqLengths (n : Fin 64)
  | stepRun (n : Fin 64) (t : Nat)
  | stepCommit (n : Fin 64) (t : Nat)
  | stepAbort (n : Fin 64) (t : Nat)
  | tierPrefetch (n : Fin 64)
  | tierEvict (n : Fin 64) (t : Nat)
  | tierPin (n : Fin 64)
  | tierUnpin (n : Fin 64)
  | carillonForm (n : Fin 64) (t : Nat)
  | planeSwitch (n : Fin 64) (t : Nat)
  | shrink (n : Fin 64) (t : Nat)
  | carillonLeave (n : Fin 64)
  | latenessRead (n : Fin 64)
  | twinPair (n : Fin 64) (peer : Option Peer)
  | twinResync (n : Fin 64) (targetMark : Option Nat) (targetKept : Bool)
  | twinUnpair (n : Fin 64) (peerBusy : Bool)
  | twinMode (n : Fin 64) (peerIdle digestEqual : Bool)
  | selftest (n : Fin 64) (fails : List Nat)
  | calibrate (n : Fin 64) (fails : List Nat) (found : TrimFinds)
  | policySet (n : Fin 64)
  | policyGet (n : Fin 64)
  | beatSync (n : Fin 64)
  | resetWarm (n : Fin 64)
  | holdEnter (n : Fin 64) (t : Nat)
  | holdExit (n : Fin 64) (t : Nat)
  -- G1 commands (R443)
  | g1Info (n : Fin 64)
  | g1Status (n : Fin 64)
  | logRead (n : Fin 64)
  | cfgRead (n : Fin 64)
  | cfgWrite (n : Fin 64)
  | cfgCommit (n : Fin 64) (readBack : Nat)
  | modelLoad (n : Fin 64)
  | modelCheck (n : Fin 64)
  | runStart (n : Fin 64)
  | runStop (n : Fin 64)
  | seqNew (n : Fin 64)
  | seqPut (n : Fin 64) (twinOk : Bool)
  | seqFree (n : Fin 64)
  | seqLen (n : Fin 64)
  | infer (n : Fin 64) (t : Nat)
  | accept (n : Fin 64) (t : Nat)
  | cancel (n : Fin 64) (t : Nat)
  | test (n : Fin 64) (fails : List Nat)
  | trim (n : Fin 64) (fails : List Nat) (found : TrimFinds)
  | reset (n : Fin 64)
  -- sequencer
  | dispatch (c : Fin 64)
  | nop (c : Fin 64)
  | opEnd (c : Fin 64)
  | gong (c : Fin 64)
  | gongArrival (c : Fin 64)
  | gongRelease
  | bndset (c : Fin 64)
  | bndload (c : Fin 64)
  | boundRegisterLoad (c : Fin 64)
  | wctrArm (c : Fin 64)
  -- engines
  | mxuOp (c : Fin 64) (t : Nat) (up : List (Nat × Nat))
  | attn (c : Fin 64) (t : Nat) (up : List (Nat × Nat))
  | vuOp (c : Fin 64) (t : Nat) (up : List (Nat × Nat))
  | exp (c : Fin 64) (t : Nat) (up : List (Nat × Nat))
  | exp2 (c : Fin 64) (t : Nat) (up : List (Nat × Nat))
  | log (c : Fin 64) (t : Nat) (up : List (Nat × Nat))
  | log2 (c : Fin 64) (t : Nat) (up : List (Nat × Nat))
  | rcp (c : Fin 64) (t : Nat) (up : List (Nat × Nat))
  | rsqrt (c : Fin 64) (t : Nat) (up : List (Nat × Nat))
  | rud (c : Fin 64) (t : Nat) (up : List (Nat × Nat))
  | rsuOp (c : Fin 64) (t : Nat) (up : List (Nat × Nat))
  | refmax (c : Fin 64) (t : Nat) (up : List (Nat × Nat))
  | merge (c : Fin 64) (t : Nat) (up : List (Nat × Nat))
  | lwadd (c : Fin 64) (t : Nat) (up : List (Nat × Nat))
  | lwround (c : Fin 64) (t : Nat) (up : List (Nat × Nat))
  | rollscale (c : Fin 64) (t : Nat) (up : List (Nat × Nat))
  | copy (c : Fin 64) (t : Nat) (up : List (Nat × Nat))
  | mcast (c : Fin 64) (t : Nat) (up : List (Nat × Nat))
  | fetch (c : Fin 64) (t : Nat) (up : List (Nat × Nat))
  | tileStart (c : Fin 64) (e : Engine) (t : Nat) (up : List (Nat × Nat))
  | wctrDraw (c : Fin 64) (e : Engine) (t : Nat) (up : List (Nat × Nat))
  | rescueMark (ctr : Fin 64) (idx t : Nat)
  | tileCommit (c : Fin 64) (e : Engine) (t : Nat) (up : List (Nat × Nat))
  | coreCompletion (c : Fin 64)
  | waitTimeout (c : Fin 64) (e : Engine) (t : Nat)
  | streamResume (c : Fin 64) (t : Nat)
  | repairLimit (c : Fin 64) (t : Nat)
  | burstRewrite (burst : Nat)
  -- epochs
  | stepDone (t : Nat)
  | prepareNotice (epoch : Nat) (counts : List (Nat × Nat)) (twinDigest : Option (List Byte)) (t : Nat)
  | prepareAck (epoch : Nat)
  | vote (m epoch : Nat) (ok : Bool)
  | decision (epoch : Nat) (commit : Bool)
  | decisionAck (m epoch : Nat)
  | voteLost (t : Nat)
  | decisionLost (t : Nat)
  | knellNotice (p : Port) (k : KnellMsg) (t : Nat)
  | quietSend
  | quietNotice (q : Quiet) (t : Nat)
  | quiesced (epoch : Nat)
  | quiesceTimeout (t : Nat)
  | selfcheck (pass : Bool)
  -- carillon events
  | formNotice (m cid : Nat) (digest : List Byte)
  | formed (cid : Nat)
  | formFail (cid m : Nat)
  | formTimeout (t : Nat)
  | leaveNotice (m : Nat)
  | latenessWindow
  | windowRecord (r : WinRec)
  | message (p : Port) (d : MsgDesc) (data : List Byte) (poison : List Nat) (t : Nat)
  | controlSignal (p : Port) (d : MsgDesc) (t : Nat)
  | haltNotice (m t : Nat)
  | resumeNotice (m t : Nat)
  | roleNotice
  | roleTimeout (t : Nat)
  | holdNotice
  -- reduction
  | chunk (c : ChunkMsg)
  | chunkCombine (pop use k : Nat) (upset : MemUpset)
  | spillService (pop use k : Nat)
  | chunkAck (r : ChunkRef)
  | chunkNak (r : ChunkRef)
  -- links
  | dataFlit (p : Port) (raw : List Byte)
  | idleFlit (p : Port) (raw : List Byte)
  | nak (p : Port) (raw : List Byte)
  | ackStall (p : Port) (t : Nat)
  | laneLockLoss (p : Port) (lane : Fin 8)
  | retrainComplete (p : Port) (failed : Option (Fin 8))
  -- twin events
  | mirrorWrite (addr : Nat) (data : List Byte) (poison : List Nat)
  | mirrorFail (t : Nat)
  | refetchRequest (space addr n : Nat)
  | refetchReply (at_ : SpaceAddr) (data : Option (List Byte))
  | resyncUnit (u : Nat) (ok : Bool)
  -- beat and DRAM
  | beatEdge (t : Nat) (temps : List Nat)
  | beatMiss (t : Nat) (temps : List Nat)
  | refreshWindow (t : Nat)
  | longWindow (t : Nat) (lanes : List (Nat × Nat)) (trimFail : List (Port × Fin 8 × Bool))
  | windowEnd (t : Nat)
  | coreWake (c : Fin 64) (t : Nat)
  | clockGate (c : Fin 64) (t : Nat)
  | granuleGrant (a : Arbiter) (t : Nat)
  | dramRead (addr : Nat) (errs : List (Nat × Nat))
  | scrubRead (addr : Nat) (errs : List (Nat × Nat))
  | rowSpared (stack chan bank row : Nat)
  | frameRetireCopy (rec : Nat)
  | promotionComplete (rec : Nat)
  | promotionError (rec : Nat)
  | evictionComplete (rec : Nat)
  | evictionError (rec : Nat)
  | lastWriteDone (rec : Nat)
  | forcedEvictionTimeout (rec t : Nat)
  -- supplies, power, heat
  | supplySwitch (p : Pair) (t : Nat)
  | supplyReturn (p : Pair) (t : Nat)
  | backupTime (p : Pair) (t : Nat)
  | pwrgd (t : Nat)
  | pwrgdRise (t : Nat)
  | rail (r : Rail) (t : Nat)
  | holdAutoExit (t : Nat)
  | holdExitComplete (modules rate : Nat) (ports : List (Port × PortTrain)) (t : Nat)
  | supplySag (r : AnyRail) (t : Nat)
  | clockStretch (c : Fin 64) (mv : Nat)
  | powerSample (draw current avg cavg : Nat)
  | thermalSample (temp : Nat)
  | thermtrip (stack : Option Nat) (t : Nat)
  -- reset and start-up
  | powerOn (t : Nat)
  | resetN (t : Nat)
  | watchdog (t : Nat)
  | romCheck (r : RomResult) (t : Nat)
  | image (t : Nat)
  | dramTrain (fails : List (Nat × Nat)) (lanes : List (Nat × Nat)) (t : Nat)
  | linkTrain (modules rate : Nat) (ports : List (Port × PortTrain)) (areaOk : Bool) (t : Nat)
  | phaseLimit (t : Nat)
  | hifLinkDown
  | ucieRetrainComplete (modules rate : Nat)
  | msixTableWrite (off : Nat) (data : List Byte)
  | resetNDeassert (t : Nat)
  | testAccessPort (op : TapOp)
  | clockFullRate (c : Fin 64)
  | sagEnd (r : AnyRail) (mv t : Nat)
  | cpStateChange (ch : CpChange)
  | ptPauseEnd
  | d0Return
  deriving DecidableEq, Repr

end Sys2Proof
end

