-- ==== Sys2Proof/Machine/Bits.lean ====
section
/-!
DEFINITION. Bit fields, byte order and rounding-free integer helpers. Words read from memory are
held as natural numbers; `fld w hi lo` is the field written [hi:lo] in the tables of the manual.
-/
namespace Sys2Proof.Machine

/-- Field [hi:lo] of a word (the manual's field notation). -/
def fld (w hi lo : Nat) : Nat := (w >>> lo) % 2 ^ (hi + 1 - lo)

/-- One bit of a word as a Bool. -/
def bitAt (w i : Nat) : Bool := fld w i i == 1

/-- A word with `v` placed at bit `lo` and above (`v` is within its field). -/
def place (v lo : Nat) : Nat := v <<< lo

def b2n (b : Bool) : Nat := if b then 1 else 0

/-- The signed value of the low `n` bits of `w` (two's complement). -/
def signed (n w : Nat) : Int :=
  let x := w % 2 ^ n
  if x < 2 ^ (n - 1) then (x : Int) else (x : Int) - (2 ^ n : Nat)

/-- The `n`-bit two's-complement pattern of an integer. -/
def pattern (n : Nat) (v : Int) : Nat := (v % ((2 ^ n : Nat) : Int)).toNat

/-- Little-endian value of a byte string (R7). -/
def leNat : List Byte → Nat
  | [] => 0
  | b :: bs => b.toNat + 256 * leNat bs

/-- `n` little-endian bytes of a value (R7). -/
def natLe : Nat → Nat → List Byte
  | 0, _ => []
  | n + 1, v => BitVec.ofNat 8 v :: natLe n (v / 256)

def ceilDiv (a b : Nat) : Nat := (a + b - 1) / b

/-- Rounded up to a multiple of `m`. -/
def roundUp (a m : Nat) : Nat := ceilDiv a m * m

/-- Cut a list into consecutive pieces of `n` (the last may be short). -/
def chunksOf {α : Type} (n : Nat) : Nat → List α → List (List α)
  | 0, _ => []
  | f + 1, l => if l.isEmpty then [] else l.take n :: chunksOf n f (l.drop n)

/-- The 64-bit little-endian words of a byte string; a short last word is zero-extended. -/
def words64 (bs : List Byte) : List Nat := (chunksOf 8 (bs.length / 8 + 1) bs).map leNat

/-- The bytes of a list of 64-bit words. -/
def bytes64 (ws : List Nat) : List Byte := ws.flatMap (natLe 8)

/-- The bits `0 … n-1` that are set in `w`, ascending. -/
def setBits (n w : Nat) : List Nat := (List.range n).filter (fun i => w.testBit i)

/-- The number with exactly the bits of the list set. -/
def maskOf (l : List Nat) : Nat := l.foldl (fun a i => a ||| (1 <<< i)) 0

/-- Smallest power of two at or above `n`, as its exponent. -/
def log2Up (n : Nat) : Nat := if n ≤ 1 then 0 else Nat.log2 (n - 1) + 1

end Sys2Proof.Machine
end

