-- ==== Sys2Proof/Machine/Float.lean ====
section
/-!
DEFINITION. Number formats and rounding (01_number_formats, R12 to R29). A value is NaN, an infinity or an
exact dyadic number; every operation is exact and is followed by one rounding, to nearest with ties
to even (R21). Arithmetic flags are a word of Table 1.5, collected beside the values.
-/
namespace Sys2Proof.Machine

/-- An exact value: NaN, a signed infinity, or (-1)^neg × mag × 2^exp. A zero keeps its sign. -/
inductive Val where
  | nan
  | inf (neg : Bool)
  | num (neg : Bool) (mag : Nat) (exp : Int)
  deriving DecidableEq, Repr

/-- The format codes of Table 1.1 (R12). -/
inductive Fmt where
  | fp32 | bf16 | e4m3 | e5m2 | mxE4m3 | mxE5m2 | mxE3m2 | mxE2m3 | mxfp4 | mxint8 | int8b | int4b
  | e3m2 | e2m3 | fp4 | fp32x | lw192
  deriving DecidableEq, Repr

/-- Table 1.1; codes 0x11 to 0x1F are reserved. -/
def Fmt.ofCode : Nat → Option Fmt
  | 0x00 => some .fp32 | 0x01 => some .bf16 | 0x02 => some .e4m3 | 0x03 => some .e5m2
  | 0x04 => some .mxE4m3 | 0x05 => some .mxE5m2 | 0x06 => some .mxE3m2 | 0x07 => some .mxE2m3
  | 0x08 => some .mxfp4 | 0x09 => some .mxint8 | 0x0A => some .int8b | 0x0B => some .int4b
  | 0x0C => some .e3m2 | 0x0D => some .e2m3 | 0x0E => some .fp4 | 0x0F => some .fp32x
  | 0x10 => some .lw192 | _ => none

/-- Bits of one element (R13, R15, R38); FP32X takes a 64-bit slot and LW192 a 256-bit record. -/
def Fmt.bits : Fmt → Nat
  | .fp32 => 32 | .bf16 => 16 | .e4m3 | .e5m2 | .mxE4m3 | .mxE5m2 | .mxint8 | .int8b => 8
  | .mxE3m2 | .mxE2m3 | .e3m2 | .e2m3 => 6 | .mxfp4 | .int4b | .fp4 => 4
  | .fp32x => 64 | .lw192 => 256

/-- The block-scaled formats of R62: MX, INT8B and INT4B. -/
def Fmt.scaled : Fmt → Bool
  | .mxE4m3 | .mxE5m2 | .mxE3m2 | .mxE2m3 | .mxfp4 | .mxint8 | .int8b | .int4b => true
  | _ => false

/-- Formats with an E8M0 scale per block (R16). -/
def Fmt.mx : Fmt → Bool
  | .mxE4m3 | .mxE5m2 | .mxE3m2 | .mxE2m3 | .mxfp4 | .mxint8 => true
  | _ => false

/-- Scale entry size S in bytes (R18). -/
def Fmt.scaleBytes : Fmt → Nat
  | .int8b => 2 | .int4b => 4 | f => if f.mx then 1 else 0

/-- Bytes of 32 elements, B32 of R62. -/
def Fmt.b32 (f : Fmt) : Nat := 4 * f.bits

/-- A floating-point layout of Table 1.2. `maxCode` is the largest finite magnitude code. -/
structure FLayout where
  mb : Nat
  bits : Nat
  bias : Int
  maxCode : Nat
  infCode : Option Nat
  nanCode : Option Nat
  deriving DecidableEq, Repr

/-- The layouts of Table 1.2 by element format; none for integer elements and LW192. -/
def Fmt.layout : Fmt → Option FLayout
  | .fp32 => some ⟨23, 32, 127, 0x7F7FFFFF, some 0x7F800000, some 0x7FC00000⟩
  | .bf16 => some ⟨7, 16, 127, 0x7F7F, some 0x7F80, some 0x7FC0⟩
  | .e4m3 | .mxE4m3 => some ⟨3, 8, 7, 0x7E, none, some 0x7F⟩
  | .e5m2 | .mxE5m2 => some ⟨2, 8, 15, 0x7B, some 0x7C, some 0x7E⟩
  | .e3m2 | .mxE3m2 => some ⟨2, 6, 3, 0x1F, none, none⟩
  | .e2m3 | .mxE2m3 => some ⟨3, 6, 1, 0x1F, none, none⟩
  | .fp4 | .mxfp4 => some ⟨1, 4, 1, 7, none, none⟩
  | .fp32x => some ⟨23, 34, 511, 0x1FF7FFFFF, some 0x1FF800000, some 0x1FFC00000⟩
  | .mxint8 | .int8b | .int4b | .lw192 => none

/-! ## Flags of Table 1.5 -/

def fSat := 1
def fInfSat := 2
def fNanSeen := 4
def fBlockNan := 8
def fNanLost := 16
def fWideOvf := 32
def fLwSat := 64
def fLwFlush := 128

/-! ## Exact arithmetic -/

def Val.zero : Val := .num false 0 0

def Val.isNan : Val → Bool
  | .nan => true | _ => false

def Val.isInf : Val → Bool
  | .inf _ => true | _ => false

def Val.isZero : Val → Bool
  | .num _ 0 _ => true | _ => false

/-- The sign bit; a NaN has none. -/
def Val.neg : Val → Bool
  | .nan => false | .inf n => n | .num n _ _ => n

def Val.negate : Val → Val
  | .nan => .nan | .inf n => .inf (!n) | .num n m e => .num (!n) m e

def Val.abs : Val → Val
  | .nan => .nan | .inf _ => .inf false | .num _ m e => .num false m e

/-- The integer mantissa with its sign. -/
def sgnMag (n : Bool) (m : Nat) : Int := if n then -(m : Int) else (m : Int)

/-- Exact sum with IEEE 754 rules for infinities and zero signs (R29). -/
def Val.add : Val → Val → Val
  | .nan, _ => .nan
  | _, .nan => .nan
  | .inf a, .inf b => if a = b then .inf a else .nan
  | .inf a, _ => .inf a
  | _, .inf b => .inf b
  | .num a m e, .num b k f =>
    let x := min e f
    let s : Int := sgnMag a (m <<< (e - x).toNat) + sgnMag b (k <<< (f - x).toNat)
    if s = 0 then .num (a && b) 0 0 else .num (decide (s < 0)) s.natAbs x

def Val.sub (x y : Val) : Val := x.add y.negate

/-- Exact product; infinity × 0 is NaN (R29, R33). -/
def Val.mul : Val → Val → Val
  | .nan, _ => .nan
  | _, .nan => .nan
  | .inf a, .inf b => .inf (xor a b)
  | .inf a, .num b k _ => if k = 0 then .nan else .inf (xor a b)
  | .num a m _, .inf b => if m = 0 then .nan else .inf (xor a b)
  | .num a m e, .num b k f => .num (xor a b) (m * k) (e + f)

/-- Multiplied by 2^k, exactly. -/
def Val.scale (k : Int) : Val → Val
  | .num n m e => .num n m (e + k)
  | v => v

/-- Order of two numbers that are not NaN: is x below y. -/
def Val.lt : Val → Val → Bool
  | .nan, _ => false
  | _, .nan => false
  | .inf a, .inf b => a && !b
  | .inf a, _ => a
  | _, .inf b => !b
  | .num a m e, .num b k f =>
    let x := min e f
    decide (sgnMag a (m <<< (e - x).toNat) < sgnMag b (k <<< (f - x).toNat))

def Val.le (x y : Val) : Bool := !x.isNan && !y.isNan && !y.lt x

/-- Equal as numbers (−0 equals +0). -/
def Val.eqv (x y : Val) : Bool := x.le y && y.le x

/-- The larger of two; a NaN wins and max(+0, −0) is +0 (R36). -/
def Val.max (x y : Val) : Val :=
  if x.isNan || y.isNan then .nan
  else if x.lt y then y
  else if y.lt x then x
  else if x.neg then y else x

/-- Integer value of the number rounded down. -/
def Val.floorInt : Val → Int
  | .num n m e =>
    if 0 ≤ e then sgnMag n (m <<< e.toNat)
    else (sgnMag n m) / ((2 ^ (-e).toNat : Nat) : Int)
  | _ => 0

def Val.ofInt (i : Int) : Val := .num (decide (i < 0)) i.natAbs 0

/-! ## Rounding -/

/-- `num / den` to the nearest integer, ties to even (R21). -/
def rneDiv (num den : Nat) : Nat :=
  let q := num / den
  let r := num % den
  if 2 * r < den then q else if den < 2 * r then q + 1 else if q % 2 = 0 then q else q + 1

/-- floor(log2 (num / den)) of a positive rational. -/
def ilog2 (num den : Nat) : Int :=
  let l : Int := (Nat.log2 num : Int) - (Nat.log2 den : Int)
  let below : Bool := if 0 ≤ l then decide (num < den <<< l.toNat) else decide (num <<< (-l).toNat < den)
  if below then l - 1 else l

/-- Magnitude code of (num/den) × 2^exp in a layout, rounded once to nearest even, without overflow
handling: codes above `maxCode` stand for a rounded magnitude beyond the largest finite value. -/
def FLayout.roundMag (f : FLayout) (num den : Nat) (exp : Int) : Nat :=
  if num = 0 then 0
  else
    let e : Int := ilog2 num den + exp
    let emin : Int := 1 - f.bias
    let q : Int := (if e < emin then emin else e) - (f.mb : Int)
    let sh : Int := exp - q
    let n := if 0 ≤ sh then rneDiv (num <<< sh.toNat) den else rneDiv num (den <<< (-sh).toNat)
    if e < emin then n else ((e + f.bias).toNat <<< f.mb) + n - 2 ^ f.mb

/-- The value of a magnitude code. -/
def FLayout.magVal (f : FLayout) (neg : Bool) (c : Nat) : Val :=
  let e := c >>> f.mb
  let m := c % 2 ^ f.mb
  if e = 0 then .num neg m (1 - f.bias - (f.mb : Int))
  else .num neg (2 ^ f.mb + m) ((e : Int) - f.bias - (f.mb : Int))

/-- The value of an element code (R13): exponent field 0 is zero or subnormal. -/
def FLayout.decode (f : FLayout) (code : Nat) : Val :=
  let neg := code.testBit (f.bits - 1)
  let c := code % 2 ^ (f.bits - 1)
  if c ≤ f.maxCode then f.magVal neg c
  else if f.infCode = some c then .inf neg
  else .nan

/-- IEEE conversion (R22): beyond the largest finite magnitude is infinity, NaN is canonical (R14). -/
def FLayout.encodeIeee (f : FLayout) (v : Val) : Nat :=
  let sign (n : Bool) : Nat := if n then 2 ^ (f.bits - 1) else 0
  match v with
  | .nan => f.nanCode.getD 0
  | .inf n => sign n + f.infCode.getD f.maxCode
  | .num n m e =>
    let c := f.roundMag m 1 e
    sign n + (if f.maxCode < c then f.infCode.getD f.maxCode else c)

/-- Saturating conversion to a narrow format (R23, R24), with its flags. -/
def FLayout.encodeSat (f : FLayout) (v : Val) : Nat × Nat :=
  let sign (n : Bool) : Nat := if n then 2 ^ (f.bits - 1) else 0
  match v with
  | .nan => match f.nanCode with
    | some c => (c, fNanSeen)
    | none => (0, fNanSeen ||| fNanLost)
  | .inf n => (sign n + f.maxCode, fInfSat)
  | .num n m e =>
    let c := f.roundMag m 1 e
    if f.maxCode < c then (sign n + f.maxCode, fSat) else (sign n + c, 0)

def f32L : FLayout := ⟨23, 32, 127, 0x7F7FFFFF, some 0x7F800000, some 0x7FC00000⟩
def bf16L : FLayout := ⟨7, 16, 127, 0x7F7F, some 0x7F80, some 0x7FC0⟩
def f32xL : FLayout := ⟨23, 34, 511, 0x1FF7FFFFF, some 0x1FF800000, some 0x1FFC00000⟩

def enc32 (v : Val) : Nat := f32L.encodeIeee v
def dec32 (c : Nat) : Val := f32L.decode (c % 2 ^ 32)
/-- One rounding to FP32 (R21, R22). -/
def round32 (v : Val) : Val := dec32 (enc32 v)
def encBf (v : Val) : Nat := bf16L.encodeIeee v
def decBf (c : Nat) : Val := bf16L.decode (c % 2 ^ 16)
def roundBf (v : Val) : Val := decBf (encBf v)
def encX (v : Val) : Nat := f32xL.encodeIeee v
def decX (c : Nat) : Val := f32xL.decode (c % 2 ^ 34)
/-- One rounding to FP32X (R36). -/
def roundX (v : Val) : Val := decX (encX v)

/-- `v / n` correctly rounded in FP32X (R37). -/
def divX (v : Val) (n : Nat) : Val :=
  match v with
  | .num s m e =>
    let c := f32xL.roundMag m n e
    f32xL.decode ((if s then 2 ^ 33 else 0) + (if f32xL.maxCode < c then 0x1FF800000 else c))
  | w => w

/-- Conversion of one value to an unscaled element of a format (R22 to R24): the code and its flags.
A NaN that is read or written also sets NAN_SEEN (Table 1.5). LW192, whose one place is the LWU's merges (Table 1.1), is no
format to round to: a VU or RSU op that names it reads NaN elements and writes code 0 (log 114, DESIGN CHOICE). -/
def convertTo (f : Fmt) (v : Val) : Nat × Nat :=
  match f with
  | .fp32 => (enc32 v, if v.isNan then fNanSeen else 0)
  | .bf16 => (encBf v, if v.isNan then fNanSeen else 0)
  | .fp32x => (encX v, if v.isNan then fNanSeen else 0)
  | g => match g.layout with
    | some l => l.encodeSat v
    | none => (0, 0)

/-! ## Elements and blocks -/

/-- Unit-scale value of an element code (R15): MXINT8 has the implied scale 2^-6. -/
def elemVal (f : Fmt) (c : Nat) : Val :=
  match f with
  | .mxint8 => (Val.ofInt (signed 8 c)).scale (-6)
  | .int8b => Val.ofInt (signed 8 c)
  | .int4b => Val.ofInt (c % 16)
  | .lw192 => .nan
  | g => match g.layout with
    | some l => l.decode (c % 2 ^ l.bits)
    | none => .nan

/-- The value of an element under its scale entry (R15, R16, R20). -/
def scaledVal (f : Fmt) (c entry : Nat) : Val :=
  match f with
  | .int8b => (elemVal .int8b c).mul (decBf entry)
  | .int4b => (Val.ofInt ((c % 16 : Nat) - (fld entry 19 16 : Int))).mul (decBf (fld entry 15 0))
  | g => if g.mx then
      (if entry % 256 = 0xFF then .nan else (elemVal g c).scale ((entry % 256 : Nat) - 127))
    else elemVal g c

/-- Is the scale entry a NaN (BLOCK_NAN when read by an op, Table 1.5). -/
def scaleNan (f : Fmt) (entry : Nat) : Bool :=
  match f with
  | .int8b => (decBf entry).isNan
  | .int4b => (decBf (fld entry 15 0)).isNan
  | g => g.mx && entry % 256 == 0xFF

/-- Value of a padding word in its stream's format, at unit scale (R90). -/
def padVal (f : Fmt) (w : Nat) : Val :=
  match f with
  | .fp32 => dec32 w
  | .int4b => Val.ofInt ((w % 16 : Nat) - (fld w 7 4 : Int))
  | g => elemVal g (w % 2 ^ g.bits)

/-- Widening to FP32 (R25): a finite scaled value beyond the range is infinity and sets WIDE_OVF. -/
def widen32 (v : Val) : Val × Nat :=
  let w := round32 v
  (w, if w.isInf && !v.isInf then fWideOvf else 0)

/-- emax of R26 for an MX element format. -/
def mxEmax : Fmt → Int
  | .mxE4m3 => 8 | .mxE5m2 => 15 | .mxE3m2 => 4 | .mxE2m3 => 2 | .mxfp4 => 2 | _ => 0

/-- The largest magnitude of a list of finite values. -/
def maxAbs (xs : List Val) : Val := xs.foldl (fun a x => if a.lt x.abs then x.abs else a) Val.zero

/-- floor(log2 m) of a positive number. -/
def Val.log2floor : Val → Int
  | .num _ m e => (Nat.log2 m : Int) + e
  | _ => 0

/-- Nearest integer, ties to even, with its sign. -/
def Val.rneInt : Val → Int
  | .num n m e => sgnMag n (if 0 ≤ e then m <<< e.toNat else rneDiv m (2 ^ (-e).toNat))
  | _ => 0

/-- Quantisation of a block to an MX format (R26): scale code, element codes, flags. -/
def quantMx (f : Fmt) (xs : List Val) : Nat × List Nat × Nat :=
  if xs.any (fun x => x.isNan || x.isInf) then (0xFF, xs.map (fun _ => 0), fBlockNan)
  else if xs.all Val.isZero then
    (0x7F, xs.map (fun x => if f = .mxint8 then 0 else if x.neg then 2 ^ (f.bits - 1) else 0), 0)
  else
    let e0 := (maxAbs xs).log2floor - mxEmax f
    let e : Int := if e0 < -127 then -127 else if 127 < e0 then 127 else e0
    let conv (x : Val) : Nat × Nat :=
      let y := x.scale (-e)
      if f = .mxint8 then
        let i := (y.scale 6).rneInt
        if 127 < i then (127, fSat) else if i < -127 then (pattern 8 (-127), fSat) else (pattern 8 i, 0)
      else convertTo f y
    let cs := xs.map conv
    ((e + 127).toNat, cs.map Prod.fst, cs.foldl (fun a c => a ||| c.2) 0)

/-- Quantisation of a block to INT8B (R27): BF16 scale, element codes, flags. -/
def quantInt8b (xs : List Val) : Nat × List Nat × Nat :=
  if xs.any (fun x => x.isNan || x.isInf) then (0x7FC0, xs.map (fun _ => 0), fBlockNan)
  else if xs.all Val.isZero then (0x3F80, xs.map (fun _ => 0), 0)
  else
    let s0 := match maxAbs xs with
      | .num _ m e => bf16L.roundMag m 127 e
      | _ => 0
    let s := if s0 = 0 then 1 else s0
    let q (x : Val) : Nat × Nat :=
      match x, decBf s with
      | .num n m e, .num _ k f =>
        let i := if 0 ≤ e - f then rneDiv (m <<< (e - f).toNat) k else rneDiv m (k <<< (f - e).toNat)
        if 127 < i then (pattern 8 (sgnMag n 127), fSat) else (pattern 8 (sgnMag n i), 0)
      | _, _ => (0, 0)
    let cs := xs.map q
    (s, cs.map Prod.fst, cs.foldl (fun a c => a ||| c.2) 0)

/-- Block quantisation by format: R26 for MX, R27 for INT8B. -/
def quantBlock (f : Fmt) (xs : List Val) : Nat × List Nat × Nat :=
  if f = .int8b then quantInt8b xs else quantMx f xs

/-! ## FP32 arithmetic of the VU (R29) -/

def add32 (x y : Val) : Val := round32 (x.add y)
def sub32 (x y : Val) : Val := round32 (x.sub y)
def mul32 (x y : Val) : Val := round32 (x.mul y)
def fma32 (x y z : Val) : Val := round32 ((x.mul y).add z)

/-! ## Row statistics (R36) -/

/-- One level of the pairwise tree: neighbours added with one FP32X rounding. -/
def treeLevel : List Val → List Val
  | a :: b :: t => roundX (a.add b) :: treeLevel t
  | l => l

/-- `k` levels of the tree. -/
def treeSum : Nat → List Val → Val
  | 0, l => l.headD Val.zero
  | k + 1, l => treeSum k (treeLevel l)

/-- The fixed pairwise tree over leaves padded with +0 to width 2^k (R36). -/
def rowTree (k : Nat) (leaves : List Val) : Val :=
  treeSum k (leaves ++ List.replicate (2 ^ k - leaves.length) Val.zero)

inductive StatKind where
  | sumSq | sum | max
  deriving DecidableEq, Repr

/-- A row statistic of R36 over FP32X leaves, on a tree of width 2^k. -/
def rowStat (kind : StatKind) (k : Nat) (xs : List Val) : Val :=
  match kind with
  | .sumSq => rowTree k (xs.map (fun x => roundX (x.mul x)))
  | .sum => rowTree k xs
  | .max => match xs with
    | [] => .inf true
    | x :: t => t.foldl Val.max x

/-! ## Matrix accumulation (R30 to R33) -/

/-- Chunk length of an operand pair (Table 1.6); none for a pair the MXU does not accept (R32). -/
def chunkLen (a b : Fmt) : Option Nat :=
  let four (f : Fmt) : Bool := f = .fp4 || f = .mxfp4
  let narrow (f : Fmt) : Bool := f ≠ .fp32 && f ≠ .bf16 && f ≠ .fp32x && f ≠ .lw192
  if a = .bf16 && b = .bf16 then some 128
  else if four a && four b then some 512
  else if narrow a && narrow b then some 256
  else none

/-- The exact sum of a chunk of products, with R33's special values; an exact zero is +0. -/
def chunkSum (ps : List Val) : Val :=
  let s := ps.foldl Val.add Val.zero
  if s.isZero then Val.zero else s

/-- One step of the accumulation: one rounding per chunk (R31). -/
def accChunk (acc : Val) (ps : List Val) : Val := round32 (acc.add (chunkSum ps))

/-! ## The long word LW192 (R38 to R41) -/

/-- An LW192 record: VALUE as a 192-bit pattern and its three flags (Table 1.8). -/
structure Lw where
  value : Nat
  nan : Bool
  satp : Bool
  satn : Bool
  deriving DecidableEq, Repr

def Lw.zero : Lw := ⟨0, false, false, false⟩

def Lw.encode (w : Lw) : Nat :=
  w.value % 2 ^ 192 + place (b2n w.nan) 192 + place (b2n w.satp) 193 + place (b2n w.satn) 194

def Lw.decode (c : Nat) : Lw := ⟨c % 2 ^ 192, bitAt c 192, bitAt c 193, bitAt c 194⟩

/-- Is a number at or above 2^27 in magnitude. -/
def atLeast2p27 (v : Val) : Bool := !v.abs.lt (.num false 1 27)

/-- Conversion of an FP32 partial scaled by 2^d, truncated toward zero (R39). -/
def lwOfVal (x : Val) (d : Int) : Lw × Nat :=
  match x with
  | .nan => (⟨0, true, false, false⟩, fNanSeen)
  | .inf n => (⟨0, false, !n, n⟩, fLwSat)
  | .num n m e =>
    if atLeast2p27 x then (⟨0, false, !n, n⟩, fLwSat)
    else
      let k := e + d + 149
      let t := if 0 ≤ k then m <<< k.toNat else m >>> (-k).toNat
      let lost := decide (k < 0) && decide (t <<< (-k).toNat ≠ m)
      (⟨pattern 192 (sgnMag n t), false, false, false⟩, if lost then fLwFlush else 0)

/-- R161: a value of a record whose RG exceeds R is not scaled. -/
def lwUnready (x : Val) : Lw × Nat :=
  match x with
  | .nan => (⟨0, true, false, false⟩, fNanSeen)
  | v => if v.isZero then (Lw.zero, 0) else (⟨0, false, !v.neg, v.neg⟩, fLwSat)

/-- Sum modulo 2^192, flags ORed (R40). -/
def Lw.add (a b : Lw) : Lw :=
  ⟨(a.value + b.value) % 2 ^ 192, a.nan || b.nan, a.satp || b.satp, a.satn || b.satn⟩

/-- A merged long word as FP32 (R41). -/
def Lw.round (w : Lw) : Val :=
  if w.nan || (w.satp && w.satn) then .nan
  else if w.satp then .inf false
  else if w.satn then .inf true
  else
    let v := signed 192 w.value
    round32 (.num (decide (v < 0)) v.natAbs (-149))

end Sys2Proof.Machine
end

