-- ==== Sys2Proof/Config.lean ====
section
/-!
DEFINITION. What the part fixes and the manual does not print, and the free values. Every opaque
constant has no body that a proof can see: a claim holds for every value of it.
-/
namespace Sys2Proof.Config

/-- Free values (log 8): draw number `i`, for a byte whose contents the manual leaves undefined. -/
opaque freeByte : Nat → Byte
/-- Free numbers (log 8): draw number `i`, for a count or a time that the manual bounds and does not fix. -/
opaque freeNat : Nat → Nat

/-- The kinds of VU opcodes; the manual gives no opcode table (log 9). -/
inductive VuKind where
  | add | sub | mul | fma | mulImm | conv | quant | rowMax | rowSum
  deriving DecidableEq, Repr

/-- The kinds of RSU opcodes (R36, R37; log 9). -/
inductive RsuKind where
  | sumSq | sum | max | meanSq | mean
  deriving DecidableEq, Repr

/-- VU opcode assignment (log 9). -/
opaque vuOpcode : Nat → Option VuKind
/-- RSU opcode assignment (log 9). -/
opaque rsuOpcode : Nat → Option RsuKind

/-- Profile L's tables: word `i` of INFO page 1 (R139, log 12). -/
opaque lTable : Nat → Word32
/-- Word of page 1 that holds the left end of segment j of a function, by built-in code (R139, log 12). -/
opaque lWhere : Nat → Nat → Nat
/-- Profile L's correction step, by built-in code: the split points of a free function that keeps order (R139, log 12). -/
opaque lCorrect : Nat → Nat → Nat
/-- Does profile L return an infinity for a magnitude beyond the FP32 range (R139, log 12). -/
opaque lOverflow : Bool

/-- The poison mark of R254 (log 10). -/
opaque poisonMark : Nat → Byte
/-- ROM_VERSION (R402, log 10). -/
opaque romVersion : Word32
/-- The ROM measurement of R473 (log 10). -/
opaque romDigest : Nat → Byte
/-- Bytes of bank F beyond what the model states (R444, log 10). -/
opaque bankF : Nat → Byte
/-- Length of bank F's image and signature (R445, log 10). -/
opaque bankFLen : Nat
/-- SLH-DSA verification (FIPS 205): key, context, message, signature (log 11). -/
opaque slhVerify : List Byte → List Byte → List Byte → List Byte → Bool
/-- The product key of the mask ROM (R464, log 11). -/
opaque productKey : List Byte
/-- The identity CA key of the mask ROM (R464, log 10). -/
opaque caKey : List Byte
/-- Deterministic signature of a report body by the identity key: byte `i` (R465, log 11). -/
opaque identitySign : List Byte → Nat → Byte

/-- Step words, table and digest of Unjor's library package (R507, log 13). -/
opaque libStep : Nat → Nat
opaque libTable : Nat → Nat
opaque libDigest : Nat → Byte

/-- Where the parts of a rudiment package lie (R143; the manual prints no package layout, log 13): byte offsets and
counts of directory, steps and table, the bytes before the signature, and whether one follows. -/
structure RudLayout where
  dirOff : Nat
  dirs : Nat
  stepOff : Nat
  steps : Nat
  tabOff : Nat
  tabs : Nat
  body : Nat
  isSigned : Bool
  deriving DecidableEq, Repr

/-- How the bytes of a package give its layout (log 13); none for bytes that are no package. -/
opaque rudLayout : List Byte → Option RudLayout

/-- Set of a line in the fetch part of the staging cache (R223, log 19). -/
opaque fetchSet : Nat → Nat → Nat

/-- Place in the spill buffer of an input of a service op, by position; 65535 is the output (R328, log 45). -/
opaque spillSlot : Nat → Nat

/-- Does the CP area of DRAM lie in a resync unit (R188, R366; the manual places it in an example only, log 42). -/
opaque cpAreaUnit : Nat → Bool
/-- The twin's identity digest, as the resync records hold it (R368, log 42). -/
opaque twinIdentity : Nat → Byte

/-- Further slices of the non-destructive self-test of a unit, by its bit of TARGETS (R245; the manual gives no count, log 110). -/
opaque testSlices : Nat → Nat

/-- The instructions that the test port offers (R497). -/
inductive TapIns where
  | idcode | bypass | sample | extest | extestPulse | extestTrain
  deriving DecidableEq, Repr

/-- Test port: the codes of its instructions (every other code selects BYPASS), what its instruction register captures, the
length of the boundary register, and Unjor's manufacturer code (R497, log 17). -/
opaque tapCode : Nat → Option TapIns
opaque tapIrCapture : List Bool
opaque tapBoundary : Nat
opaque tapMaker : Nat

end Sys2Proof.Config
end

