-- ==== Sys2Proof/Machine/Sparse.lean ====
section
/-!
DEFINITION. Sparse tables in one canonical form: keys strictly rising, no entry equal to the default.
A memory is the table of bytes whose default is 0 (log 5), so equal memories are equal lists.
-/
namespace Sys2Proof.Machine

/-- A sparse table: (key, value) pairs. -/
abbrev Table (α : Type) := List (Nat × α)

/-- The value at key `k`; `d` where no entry lists it. -/
def Table.get {α : Type} (d : α) : Table α → Nat → α
  | [], _ => d
  | (j, v) :: t, k => if j = k then v else Table.get d t k

/-- Insert or replace without looking at the default (keys stay strictly rising). -/
def Table.put {α : Type} : Table α → Nat → α → Table α
  | [], k, v => [(k, v)]
  | (j, w) :: t, k, v =>
    if k < j then (k, v) :: (j, w) :: t
    else if k = j then (k, v) :: t
    else (j, w) :: Table.put t k v

/-- Remove what the table lists for key `k`. -/
def Table.del {α : Type} : Table α → Nat → Table α
  | [], _ => []
  | (j, w) :: t, k => if j = k then Table.del t k else (j, w) :: Table.del t k

/-- Write `v` at `k`; writing the default removes the entry, which keeps the canonical form. -/
def Table.set {α : Type} [DecidableEq α] (d : α) (t : Table α) (k : Nat) (v : α) : Table α :=
  if v = d then t.del k else t.put k v

/-- The canonical form: keys strictly rising and no default value listed. -/
def Table.wf {α : Type} [DecidableEq α] (d : α) : Table α → Bool
  | [] => true
  | [(_, v)] => !decide (v = d)
  | (j, v) :: (k, w) :: t => !decide (v = d) && decide (j < k) && Table.wf d ((k, w) :: t)

/-- Apply `f` to the value at `k`. -/
def Table.upd {α : Type} [DecidableEq α] (d : α) (t : Table α) (k : Nat) (f : α → α) : Table α :=
  t.set d k (f (t.get d k))

/-- Look up in a table that has no default. -/
def Table.find {α : Type} : Table α → Nat → Option α
  | [], _ => none
  | (j, v) :: t, k => if j = k then some v else Table.find t k

/-- A byte memory: a list of (address, byte) cells (Host.Cell); an unlisted address reads 0 (log 5). -/
abbrev Mem := Table Byte

/-- What an address that no cell lists reads as (log 5). -/
def Mem.unlisted : Byte := 0#8

def Mem.read (m : Mem) (a : Nat) : Byte := Table.get Mem.unlisted m a

def Mem.write (m : Mem) (a : Nat) (v : Byte) : Mem := Table.set Mem.unlisted m a v

/-- The canonical form of a memory. -/
def Mem.wf (m : Mem) : Bool := Table.wf Mem.unlisted m

/-- `n` bytes from address `a` upward. -/
def Mem.readN (m : Mem) (a : Nat) : Nat → List Byte
  | 0 => []
  | n + 1 => m.read a :: Mem.readN m (a + 1) n

/-- Bytes stored from address `a` upward. -/
def Mem.writeN (m : Mem) : Nat → List Byte → Mem
  | _, [] => m
  | a, b :: bs => Mem.writeN (m.write a b) (a + 1) bs

/-- A little-endian number of `n` bytes (R7). -/
def Mem.readLe (m : Mem) (a n : Nat) : Nat := leNat (m.readN a n)

def Mem.writeLe (m : Mem) (a n v : Nat) : Mem := m.writeN a (natLe n v)

/-- A set of natural numbers as a rising list without repeats. -/
abbrev NatSet := List Nat

def NatSet.insert : NatSet → Nat → NatSet
  | [], k => [k]
  | j :: t, k => if k < j then k :: j :: t else if k = j then j :: t else j :: NatSet.insert t k

def NatSet.remove (s : NatSet) (k : Nat) : NatSet := s.filter (fun j => j != k)

def NatSet.has (s : NatSet) (k : Nat) : Bool := s.any (fun j => j == k)

end Sys2Proof.Machine
end

