-- ==== Sys2Proof/Machine/State.lean ====
section
/-!
DEFINITION. The machine's state as plain data, its value after reset, and the model's faults and
refusals. Every field's rule, width and reset value stands in INVENTORY.md under State.
-/
namespace Sys2Proof.Machine

/-! ## Cores -/

/-- A signal: target core, pair, side (true: EMPTY), count (R55). -/
structure Sig where
  core : Nat
  pair : Nat
  side : Bool
  count : Nat
  deriving DecidableEq, Repr

/-- One byte written: address, value, poisoned. -/
abbrev Cell := Nat × Byte × Bool

/-- One byte to be written when its effect is carried out: the bits of `mask` take those of `val`, the others keep
what stands there then (R92). -/
structure WByte where
  addr : Nat
  val : Byte
  mask : Byte
  poison : Bool
  deriving DecidableEq, Repr

/-- An effect of a tile on the outside of its engine: held under R102, or carried out at once. -/
inductive Eff where
  /-- bytes written in a space (R80); `peer` is the core of SPACE 0 and 1 -/
  | write (space peer : Nat) (cells : List WByte)
  /-- bytes leaving through a buffer that may be bound to a member or to a plan op (R299, R319) -/
  | out (buf : Nat) (cells : List WByte) (sig : Option Sig)
  | signal (s : Sig)
  deriving DecidableEq, Repr

/-- A queued op: its list index, its eight words and the bound registers at dispatch (R59). -/
structure QOp where
  idx : Nat
  w : List Nat
  bnd : List Nat
  deriving DecidableEq, Repr

/-- A halted stream's context (Table 8.3), beside the position the run itself holds. `size`: bytes of its granule (R214);
`counted`: until when its wait is in the halt totals (R307). -/
structure Halt where
  fault : Nat
  granule : Nat
  faddr : Nat
  space : Nat
  beat : Nat
  since : Nat
  inflight : Nat
  size : Nat
  counted : Nat
  deriving DecidableEq, Repr

/-- An element that waits for its row to be complete (R36, R122). `stage`: 0 for the row value of an RSU op or of a VU
reduction, i + 1 for ROWSTAT stage i of the epilogue; `row`: the bit offset of the row's element of stream C, or the row of
the statistic buffer; `col`: its column; `code`: its FP32X code; `bad`: it read poison; `idx`, `line`: level indices and row
of its tile. -/
structure Leaf where
  stage : Nat
  row : Int
  col : Nat
  code : Nat
  bad : Bool
  idx : List Nat
  line : Nat
  deriving DecidableEq, Repr

/-- An op in progress on an engine (R65). `retry`: granule whose read from HOME met one host error (Table 8.8);
`patch`: bytes of its source that the twin supplied (R227); `reqAt`: since when its present transfer is pending (R218);
`sent`: its flits to other members, as ranges of the router's count, and `sig0`: its per-op SIG0 has left (R207);
`headFrom`: since when it was at the head of its queue with the engine free (R306). -/
structure Run where
  op : QOp
  entries : Nat
  entry : Nat
  begun : Bool
  bounds : List Nat
  offs : List Nat
  pos : Nat
  tileOpen : Bool
  tiles : Nat
  acc : List Nat
  leaves : List Leaf
  drawn : Option (Nat × Bool)
  held : List Eff
  ready : Bool
  poisonTile : Bool
  len : Nat
  tileFrom : Nat
  halt : Option Halt
  retry : Option Nat
  patch : List (Nat × Byte)
  reqAt : Nat
  sent : List (Nat × Nat)
  sig0 : Bool
  headFrom : Nat
  deriving DecidableEq, Repr

/-- State of a core's sequencer (R63 to R67). -/
inductive Csq where
  | idle | running | gongWait | atGong | bndWait | ended
  deriving DecidableEq, Repr

/-- Where a signal of another member came from: member, port, arrival index of its stroke, time (R306). -/
structure SigSrc where
  member : Nat
  port : Nat
  index : Nat
  at_ : Nat
  deriving DecidableEq, Repr

/-- A signal that no wait has taken, and its source when another member sent it (R306). -/
structure SigNote where
  count : Nat
  src : Option SigSrc
  deriving DecidableEq, Repr

/-- A core (R43, R47 to R59). `headAt`: since when an engine's queue head waits (R306); `remote`: by counter, the
latest signals that no wait has taken, oldest first (R306). -/
structure Core where
  store : Mem
  poison : NatSet
  flips : Table Nat
  semF : Table Nat
  semE : Table Nat
  bnd : Table Nat
  flags : Nat
  ctl : Option Nat
  csq : Csq
  pc : Nat
  lastOp : Nat
  queues : Table (List QOp)
  engs : Table (Option Run)
  fault : Option (Nat × Nat)
  done : Bool
  written : NatSet
  gated : Bool
  gatedAt : Nat
  idleAt : Nat
  clock : Nat
  stretchAt : Nat
  strokes : Table Nat
  headAt : Table Nat
  remote : Table (List SigNote)
  deriving DecidableEq, Repr

def Core.init : Core :=
  { store := [], poison := [], flips := [], semF := [], semE := [], bnd := [], flags := 0, ctl := none,
    csq := .idle, pc := 0, lastOp := 0, queues := [], engs := [], fault := none, done := false,
    written := [], gated := false, gatedAt := 0, idleAt := 0, clock := 3000, stretchAt := 0, strokes := [],
    headAt := [], remote := [] }

/-- A work counter in its pass (R94 to R102). Draws are (index, core, time); `taken` are marked indices
already handed to a rescuer; commits are (index, draw-to-commit time). -/
structure Wctr where
  count : Nat
  factor : Nat
  next : Nat
  draws : List (Nat × Nat × Nat)
  marks : List Nat
  taken : List Nat
  commits : List (Nat × Nat)
  deriving DecidableEq, Repr

structure Fabric where
  gong : Table (Option Nat)
  ctrs : Table (Option Wctr)
  staging : Mem
  stagingPoison : NatSet
  fetch : List Nat
  deriving DecidableEq, Repr

/-! ## CP, host side -/

structure Cp where
  phase : Nat
  fail : Nat
  kind : Nat
  tripPrev : Bool
  dramKept : Bool
  wdog : Nat
  rstLow : Bool
  pwrgd : Bool
  startAt : Nat
  phaseAt : Nat
  tripped : Bool
  holdFrom : Option (Nat × Nat)
  stableAt : Option Nat
  exiting : Option Nat
  started : Bool
  deriving DecidableEq, Repr

structure Bar where
  chimeStatus : Nat
  chimeMask : Nat
  scratch : List Word32
  window : Nat
  beatHi : Nat
  deriving DecidableEq, Repr

structure Pcie where
  busMaster : Bool
  d3hot : Bool
  table : Mem
  held : NatSet
  deriving DecidableEq, Repr

/-- A UCIe bump region of the die (R494). -/
inductive UcieRegion where
  | advanced
  | standard
  deriving DecidableEq, Repr

/-- The host interface: the link, the region that it trains and which regions are powered (R399, R494). -/
structure Hif where
  up : Bool
  modules : Nat
  rate : Nat
  rev : Nat
  region : UcieRegion
  advOn : Bool
  stdOn : Bool
  deriving DecidableEq, Repr

structure I3c where
  dynAddr : Option (BitVec 7)
  offset : Nat
  latch : List Byte
  latchAt : Nat
  ibiEn : Bool
  deriving DecidableEq, Repr

/-- What a command begun and not complete waits for (R411, R412). -/
inductive JobKind where
  | stepWait | step | commit | abort | form | planeSwitch | shrink | tierPrefetch | tierEvict
  | resync | append | seqOpen | holdEnter | image | selftest
  deriving DecidableEq, Repr

/-- A command in progress: mailbox, kind, units (key, status when known), time limit, pages whose
promotion it awaits, arguments. -/
structure Job where
  n : Nat
  kind : JobKind
  units : List (Nat × Option Nat)
  deadline : Option Nat
  awaits : List Nat
  args : List Nat
  deriving DecidableEq, Repr

/-- A mailbox field by field (Table 17.8); PAYLOAD is a byte memory from offset 0x020. -/
structure Mbox where
  owner : Word32
  gen : Word32
  opflags : Word32
  tag : Word32
  length : Word32
  status : Word32
  resultLen : Word32
  bitmap : Word32
  payload : Mem
  deriving DecidableEq, Repr

def Mbox.init : Mbox := ⟨0, 0, 0, 0, 0, 0, 0, 0, []⟩

structure Boxes where
  box : Table Mbox
  order : List Nat
  jobs : List Job
  heldChimes : List Nat
  deriving DecidableEq, Repr

structure EvRec where
  kind : Nat
  index : Nat
  seq : Nat
  code : Nat
  beat : Nat
  phase : Nat
  data0 : Nat
  data1 : Nat
  deriving DecidableEq, Repr

structure Events where
  recs : List EvRec
  next : Nat
  seqs : Table Nat
  marks : List (Nat × Nat)
  sags : Nat
  snares : List (Nat × List Byte)
  snareNo : Nat
  deriving DecidableEq, Repr

/-- A journal record of bank J's log (Table 19.6). -/
inductive JRec where
  | commit (rseq valid prev count : Nat) (vdigest pdigest : List Byte)
  | pairing (rseq : Nat) (role mode : Nat) (valid : Bool)
  | resync (rseq : Nat) (own : Bool) (mark lce : Nat) (digest : List Byte) (twinId : List Byte)
  | trip (rseq : Nat) (isOpen : Bool)
  deriving DecidableEq, Repr

structure Image where
  u0 : Mem
  u1 : Mem
  journal : List JRec
  rseq : Nat
  head : Nat
  slots : Table Nat
  spareMap : List (Nat × Nat × Nat × Nat)
  laneMap : List (Nat × Nat × Nat)
  retired : NatSet
  retiredNow : NatSet
  auth : Option (List Byte)
  lastWrite : Option Nat
  bank : Nat
  fields : Table (Option Nat)
  libDigest : List Byte
  startKey : Option (List Byte)
  deriving DecidableEq, Repr

structure Policy where
  values : Table (Option Nat)
  next : List (Nat × Nat)
  late : List (Nat × Nat)
  routing : Option Nat
  deriving DecidableEq, Repr

structure Sec where
  idOk : Bool
  keyHeld : Bool
  reports : Nat
  ownerKey : Option (List Byte)
  unsignedOk : Bool
  deriving DecidableEq, Repr

inductive PatState where
  | none | loaded | verified | started
  deriving DecidableEq, Repr

structure Pattern where
  st : PatState
  image : List Byte
  digest : List Byte
  deriving DecidableEq, Repr

/-- A directory entry of the rudiment package (Table 5.8). -/
structure RudDir where
  id : Nat
  first : Nat
  count : Nat
  tbase : Nat
  tlen : Nat
  deriving DecidableEq, Repr

structure Rudiments where
  dir : List RudDir
  steps : List Nat
  table : List Nat
  digest : List Byte
  deriving DecidableEq, Repr

/-! ## Sequences and tiers -/

structure Lens where
  committed : Nat
  prov : Nat
  isOpen : Bool
  maxlen : Nat
  deriving DecidableEq, Repr

def Lens.init : Lens := ⟨0, 0, false, 0⟩

/-- A page record (Table 7.4), its beat stamp with the phase (R198) and its TMV writes in flight (R196). -/
structure Page where
  home : Nat
  frame : Nat
  st : Nat
  dirty : Bool
  evpend : Bool
  pin : Nat
  share : Nat
  stamp : Nat
  inflight : Nat
  forced : Bool
  prefetch : Bool
  deriving DecidableEq, Repr

/-- Lengths, headers, region maps, page records and home lists; `copyq`: records in the order in which their copies
began, with the times (R200, R218); `draining`: frames that no page holds and that a TMV write in flight still uses, with their record (R197). -/
structure Kv where
  lens : Table Lens
  hdrs : Table (List Nat)
  map : Table Nat
  recs : Table (Option Page)
  homes : Table (List Nat)
  copyq : List (Nat × Nat)
  draining : List (Nat × Nat)
  deriving DecidableEq, Repr

/-! ## Epochs -/

inductive EpSt where
  | idle | running | done | prepared
  deriving DecidableEq, Repr

def EpSt.code : EpSt → Nat
  | .idle => 0 | .running => 1 | .done => 2 | .prepared => 3

/-- `formats`: word SQ0 of the region headers as STEP_RUN found them (R171). -/
structure Epoch where
  st : EpSt
  next : Nat
  lce : Nat
  poison : Bool
  seqs : List (Nat × Nat)
  pins : List Nat
  prep : Option (Nat × List (Nat × Nat))
  halt : Bool
  quiet : Bool
  knell : Option (KnellMsg × Nat)
  extra : Nat
  orig : Nat
  absorbed : Nat
  startAt : Nat
  prepAt : Nat
  voteDue : Option (Nat × List (Nat × Nat))
  ackDue : Bool
  mismatch : Option Nat
  selfCheck : Bool
  persist : Bool
  ranMax : Nat
  stepPolicy : Table Nat
  peerDigest : Option (List Byte)
  quietSent : Option Nat
  formats : Table Nat
  abortDue : Option Nat
  deriving DecidableEq, Repr

/-- What the lead holds for a commit and for quiescence (R338 to R344). -/
structure Lead where
  counts : List (Nat × Nat)
  votes : List (Nat × Bool)
  acks : List Nat
  decided : Option (Nat × Bool)
  quiets : List Quiet
  commitAt : Nat
  deriving DecidableEq, Repr

/-! ## Carillon, router, ports -/

/-- The carillon record: descriptor words, member table, ring order, plan, digest (R292 to R296). -/
structure CarRec where
  desc : List Nat
  members : List Nat
  ring : List Nat
  plan : List Byte
  digest : List Byte
  deriving DecidableEq, Repr

structure Late where
  ports : List (Nat × Nat × Nat)
  strokes : Table Nat
  suffer : Nat
  halt : Nat
  srcs : Table Nat
  wsuffer : Nat
  whalt : Nat
  wsrcs : Table Nat
  deriving DecidableEq, Repr

def Late.init : Late := ⟨List.replicate 7 (0, 0, 0), [], 0, 0, [], 0, 0, []⟩

structure Report where
  slowest : Nat
  count : Nat
  overs : Nat
  recommend : Nat
  net : Int
  wbeat : Nat
  deriving DecidableEq, Repr

/-- `winLens`: the ended lateness windows without a report yet, as first beat and length in beats (R307, R308). -/
structure Carillon where
  member : Bool
  rec? : Option CarRec
  forming : Option CarRec
  forms : List (Nat × Nat × List Byte)
  threshold : Nat
  late : Late
  winFrom : Nat
  winLens : List (Nat × Nat)
  windows : List WinRec
  report : Option Report
  haltedBy : NatSet
  waitStop : Option Nat
  pauses : List (Nat × Nat)
  copiesDue : List (Nat × Nat)
  deriving DecidableEq, Repr

/-- A chunk input that has arrived: position, checked, data, poisoned elements. -/
structure ChunkIn where
  k : Nat
  pos : Nat
  data : List Byte
  poison : List Nat
  deriving DecidableEq, Repr

/-- A chunk sent and retained until it is acknowledged (R331). -/
structure ChunkOut where
  k : Nat
  down : Bool
  dest : Nat
  resent : Bool
  data : List Byte
  poison : List Nat
  deriving DecidableEq, Repr

/-- A live instance of a plan op at this node (R324 to R328); `sent`: its flits, as ranges of the router's count (R326). -/
structure Inst where
  pop : Nat
  use : Nat
  router : Bool
  claim : Nat
  ins : List ChunkIn
  combined : List Nat
  outs : List ChunkOut
  nacked : List (Nat × Nat × Bool)
  injected : List (Nat × Byte × Bool)
  delivered : List Nat
  sent : List (Nat × Nat)
  deriving DecidableEq, Repr

/-- `injected`: flits of the device's own that its router has taken; `owed`: SIG1 signals with their core that wait for such
flits to leave, as ranges of that count (R207); `ready`: chunks of spilled instances whose inputs are all there, in order of
completion (R328); `fixed`: single-bit errors of reduction memory corrected (R334). -/
structure Router where
  insts : List Inst
  uses : Table Nat
  injBytes : Table Nat
  slots : Nat
  bytes : Nat
  doneInsts : List (Nat × Nat)
  injected : Nat
  owed : List (Nat × List (Nat × Nat) × Sig)
  ready : List (Nat × Nat × Nat)
  fixed : Nat
  deriving DecidableEq, Repr

inductive PortSt where
  | down | degraded (upper : Bool) | full | disabled
  deriving DecidableEq, Repr

/-- A flit: its 64-bit header and its payload bytes. -/
abbrev Flit := Nat × List Byte

/-- A flit that waits to leave: the port it came by (none: local injection) and the pool it holds a buffer of there (R276);
`no`: its place among the device's own flits. -/
structure Queued where
  src : Option Port
  pool : Nat
  flit : Flit
  no : Nat
  deriving DecidableEq, Repr

structure PortS where
  st : PortSt
  txSeq : Nat
  rxSeq : Nat
  retry : List Flit
  waitq : List Queued
  /-- Last source served, by virtual channel, and the last of REDUCTION and BULK (R277). -/
  turns : List Nat
  alt : Nat
  resync : Bool
  resendSeq : Nat
  resends : Nat
  ackAt : Nat
  credits : List Nat
  shared : Nat
  owed : List Nat
  sinceIdle : Nat
  train : Option Nat
  lockLoss : List (Nat × Nat)
  corr : List Nat
  epochRetries : Nat
  beat16 : Option Nat
  deriving DecidableEq, Repr

/-! ## DRAM, beat, power, twin -/

/-- Whom an arbiter granted its last granule: a TMV stream, or a background stream (0 SCRUB, 1 TWIN_CATCHUP,
2 HOST_PREFETCH, 3 + c WEIGHT_PREFETCH of core c). -/
inductive Grant where
  | stream (core opid : Nat)
  | background (id : Nat)
  deriving DecidableEq, Repr

/-- `degraded`: by channel in erasure mode, 1 + the pin group of its failed lane (R255); `ceCount`, `rebuilt`: CE reads and reads
that needed the rebuild alone, by channel (R253, R255); `scrubDue`: bursts that patrol scrub has reached and not yet read
(R256); `retiredBy`: by frame, the row for which it was retired (R260). -/
structure Dram where
  bytes : Mem
  poison : NatSet
  errs : Table (List (Nat × Nat))
  ceBeats : Table (List Nat)
  ceAt : Table (List Nat)
  copying : NatSet
  spareUsed : Table Nat
  lanesUsed : Table Nat
  degraded : Table Nat
  temps : List Nat
  throttled : NatSet
  selfRef : Bool
  selfRefKept : Bool
  trained : Bool
  writeback : NatSet
  rewrite : NatSet
  scrub : Table Nat
  scrubAt : Table Nat
  grants : Table (Option Grant)
  rrTurn : Table Nat
  bgFrom : Table (Option Nat)
  closed : Bool
  ceCount : Table Nat
  rebuilt : Table Nat
  scrubDue : NatSet
  retiredBy : Table Nat
  deriving DecidableEq, Repr

/-- A deferred housekeeping request (R245): opcode, status to report, beat of the window chosen, windows that it still takes. -/
structure Task where
  op : Nat
  status : Nat
  window : Nat
  left : Nat
  deriving DecidableEq, Repr

structure Beat where
  num : Nat
  start : Nat
  lost : Bool
  relock : Bool
  run : Nat
  lastEdge : Nat
  misses : Nat
  hot : Bool
  autoHot : Bool
  cool : Nat
  window : Nat
  deferRef : Bool
  lastLong : Nat
  first : Bool
  tasks : List Task
  deriving DecidableEq, Repr

structure Supply where
  onBackup : List Bool
  backupFrom : List (Option Nat)
  sagSeen : Bool
  switchSeen : Bool
  throtSeen : Bool
  cause : Nat
  count : Nat
  exited : Bool
  railsOut : List Rail
  sags : List (AnyRail × Nat × Nat × Nat)
  deriving DecidableEq, Repr

structure Power where
  duty : Nat
  thermDuty : Nat
  capDuty : Nat
  pwr : Bool
  cur : Bool
  therm : Bool
  ramp : Bool
  ballast : Bool
  vmin : Nat
  draw : Nat
  current : Nat
  tlogic : Nat
  dutyMin : Nat
  means : List Nat
  sum : Nat
  csum : Nat
  samples : Nat
  last : List Nat
  deriving DecidableEq, Repr

/-- `since`: from when a resync in progress has transfers pending (R218). -/
structure Twin where
  st : Nat
  mode : Nat
  role : Nat
  valid : Bool
  wmark : Nat
  cause : Nat
  resync : Option (Nat × Nat)
  paused : Bool
  nextEpoch : Nat
  mirror : List (Nat × Nat)
  knell : Option (Nat × Nat)
  roleSent : Option Nat
  prepOf : Option (Nat × List (Nat × Nat))
  since : Nat
  deriving DecidableEq, Repr

structure Tap where
  ir : Config.TapIns
  extest : Bool
  pins : List Bool
  dr : List Bool
  deriving DecidableEq, Repr

structure HostMem where
  bytes : Mem
  poison : NatSet
  bad : NatSet
  deriving DecidableEq, Repr

/-- What the device sends outside; a flit as its 288 bytes on the wire (R270). -/
inductive Out where
  | msix (n : Nat)
  | data (bytes : List Byte) (poison : Bool)
  | ibi (b : Nat)
  | notice (name : String) (dest : Nat) (args : List Nat)
  | ptNotice (name : String) (args : List Nat) (bytes : List Byte)
  | flit (p : Port) (raw : List Byte)
  | resetRequest
  | tdo (bits : List Bool)
  deriving DecidableEq, Repr

structure State where
  pending : List Instr
  now : Nat
  free : Nat
  out : List Out
  cp : Cp
  bar : Bar
  pcie : Pcie
  hif : Hif
  i3c : I3c
  mb : Boxes
  ev : Events
  tele : Table Nat
  img : Image
  pol : Policy
  sec : Sec
  pat : Pattern
  rud : Rudiments
  cores : Table Core
  fab : Fabric
  kv : Kv
  ep : Epoch
  lead : Lead
  car : Carillon
  rt : Router
  ports : Table PortS
  dram : Dram
  beat : Beat
  sup : Supply
  pwr : Power
  twin : Twin
  tap : Tap
  host : HostMem
  deriving DecidableEq, Repr

/-- Why the model stops where no command of the device can be meant. -/
inductive Fault where
  /-- A command names a unit or an address that the device does not have: raised by every command whose
  operands break Instr.wf (WellFormed.lean). Safe: no such command can reach the device. -/
  | noSuchUnit
  deriving DecidableEq, Repr

/-- Why the model refuses a command. -/
inductive Refusal where
  /-- The command has no meaning in the model; raised by no arm. Safe. -/
  | notModelled (mnemonic : String)
  deriving DecidableEq, Repr

/-! ## Reset -/

def PortS.init : PortS :=
  { st := .down, txSeq := 0, rxSeq := 4095, retry := [], waitq := [], turns := [7, 7, 7, 7], alt := 2, resync := false,
    resendSeq := 0, resends := 0, ackAt := 0, credits := [8, 8, 8, 8, 8, 8, 0, 0], shared := 976,
    owed := List.replicate 8 0, sinceIdle := 0, train := none, lockLoss := [],
    corr := List.replicate 8 0, epochRetries := 0, beat16 := none }

def PortS.initPt : PortS := { PortS.init with credits := [8, 0, 0, 0, 0, 0, 8, 0], shared := 1008 }

def Epoch.init : Epoch :=
  { st := .idle, next := 1, lce := 0, poison := false, seqs := [], pins := [], prep := none, halt := false,
    quiet := true, knell := none, extra := 0, orig := 0, absorbed := 0, startAt := 0, prepAt := 0,
    voteDue := none, ackDue := false, mismatch := none, selfCheck := false, persist := false, ranMax := 0,
    stepPolicy := [], peerDigest := none, quietSent := none, formats := [], abortDue := none }

def Lead.init : Lead := ⟨[], [], [], none, [], 0⟩

def Carillon.init : Carillon :=
  { member := false, rec? := none, forming := none, forms := [], threshold := 256, late := Late.init,
    winFrom := 0, winLens := [], windows := [], report := none, haltedBy := [], waitStop := none, pauses := [], copiesDue := [] }

def Dram.init : Dram :=
  { bytes := [], poison := [], errs := [], ceBeats := [], ceAt := [], copying := [], spareUsed := [],
    lanesUsed := [], degraded := [], temps := List.replicate 24 4500, throttled := [], selfRef := false,
    selfRefKept := false, trained := false, writeback := [], rewrite := [], scrub := [], scrubAt := [], grants := [], rrTurn := [],
    bgFrom := [], closed := false, ceCount := [], rebuilt := [], scrubDue := [], retiredBy := [] }

def Beat.init : Beat :=
  { num := 0, start := 0, lost := true, relock := false, run := 0, lastEdge := 0, misses := 0, hot := false,
    autoHot := false, cool := 0, window := 0, deferRef := false, lastLong := 0, first := true, tasks := [] }

def Supply.init : Supply :=
  { onBackup := [false, false, false], backupFrom := [none, none, none], sagSeen := false,
    switchSeen := false, throtSeen := false, cause := 0, count := 0, exited := false, railsOut := [],
    sags := [] }

def Power.init : Power :=
  { duty := 256, thermDuty := 256, capDuty := 256, pwr := false, cur := false, therm := false,
    ramp := false, ballast := false, vmin := 0, draw := 0, current := 0, tlogic := 0, dutyMin := 256,
    means := [], sum := 0, csum := 0, samples := 0, last := [] }

def Twin.init : Twin :=
  { st := 0, mode := 0, role := 0, valid := false, wmark := 0, cause := 0, resync := none,
    paused := false, nextEpoch := 1, mirror := [], knell := none, roleSent := none, prepOf := none, since := 0 }

def Image.init : Image :=
  { u0 := [], u1 := [], journal := [], rseq := 0, head := 0, slots := [], spareMap := [], laneMap := [], retired := [],
    retiredNow := [], auth := none, lastWrite := none, bank := 0, fields := [], libDigest := (List.range 32).map Config.libDigest,
    startKey := none }

/-- Every vector of the MSI-X table starts masked (log 14): bit 0 of vector control. -/
def msixInit : Mem := (List.range 64).map (fun n => (16 * n + 12, 1#8))

/-- Unjor's library package (R507, log 13): the directory of Table 5.9 over the opaque step words; each rudiment ends in
END, the word 0 (R144). -/
def libDir : List RudDir :=
  [⟨1, 0, 15, 0, 0⟩, ⟨2, 15, 23, 0, 0⟩, ⟨3, 38, 17, 0, 0⟩, ⟨4, 55, 13, 0, 0⟩, ⟨5, 68, 13, 0, 0⟩]

def Rudiments.lib : Rudiments :=
  ⟨libDir, (List.range 81).map (fun i => if libDir.any (fun d => d.first + d.count == i + 1) then 0 else Config.libStep i), (List.range 4096).map Config.libTable,
   (List.range 32).map Config.libDigest⟩

/-- The machine right after a power-on reset, start-up begun (R476, R483). -/
def State.reset : State :=
  { pending := [], now := 0, free := 0, out := [],
    cp := { phase := 0, fail := 0, kind := 0, tripPrev := false, dramKept := false, wdog := 0,
            rstLow := false, pwrgd := true, startAt := 0, phaseAt := 0, tripped := false, holdFrom := none,
            stableAt := some 0, exiting := none, started := true },
    bar := { chimeStatus := 0, chimeMask := 0, scratch := [0, 0, 0, 0], window := 0, beatHi := 0 },
    pcie := { busMaster := true, d3hot := false, table := msixInit, held := [] },
    hif := { up := false, modules := 0, rate := 0, rev := 0, region := .advanced, advOn := false, stdOn := false },
    i3c := { dynAddr := none, offset := 0, latch := [], latchAt := 0, ibiEn := true },
    mb := { box := [], order := [], jobs := [], heldChimes := [] },
    ev := { recs := [], next := 0, seqs := [], marks := [], sags := 0, snares := [], snareNo := 0 },
    tele := [], img := Image.init,
    pol := { values := [], next := [], late := [], routing := none },
    sec := { idOk := false, keyHeld := false, reports := 0, ownerKey := none, unsignedOk := true },
    pat := { st := .none, image := [], digest := List.replicate 32 0 },
    rud := Rudiments.lib, cores := [],
    fab := { gong := [], ctrs := [], staging := [], stagingPoison := [], fetch := [] },
    kv := { lens := [], hdrs := [], map := [], recs := [], homes := [], copyq := [], draining := [] },
    ep := Epoch.init, lead := Lead.init, car := Carillon.init,
    rt := { insts := [], uses := [], injBytes := [], slots := 0, bytes := 0, doneInsts := [], injected := 0, owed := [], ready := [], fixed := 0 },
    ports := [], dram := Dram.init, beat := Beat.init, sup := Supply.init, pwr := Power.init,
    twin := Twin.init, tap := { ir := .idcode, extest := false, pins := [], dr := [] },
    host := { bytes := [], poison := [], bad := [] } }

end Sys2Proof.Machine
end

