-- ==== Sys2Proof/WellFormed.lean ====
section
/-!
DEFINITION. Which commands can reach the device: the units and addresses that their operands name must exist. Operands whose
types already say so (a mailbox, a core, a port) need no check.
-/
namespace Sys2Proof

/-- Bytes of DRAM (R250). -/
def dramBytes : Nat := 192 * 2 ^ 30

/-- A range within DRAM (R251). -/
def dramOk (addr n : Nat) : Bool := decide (addr + n ≤ dramBytes)
/-- An access within one 4 KiB block of BAR0's 512 KiB (R402, R409). -/
def bar0Ok (off n : Nat) : Bool := decide (off < 0x80000) && decide (off % 4096 + n ≤ 4096)
/-- An access within BAR2's 4 GiB (R406). -/
def bar2Ok (off n : Nat) : Bool := decide (off + n ≤ 2 ^ 32)
/-- An access within the 64 entries of the MSI-X table (R401). -/
def msixOk (off n : Nat) : Bool := decide (off + n ≤ 1024)
/-- A DRAM stack (R250). -/
def stackOk (st : Nat) : Bool := decide (st < 24)
/-- Bond lanes: each names one of the 768 channels as 32 × stack + channel (R250). -/
def lanesOk (lanes : List (Nat × Nat)) : Bool := lanes.all (fun l => decide (l.1 < 768))
/-- A row of a bank (R250). -/
def rowOk (st chan bank row : Nat) : Bool := stackOk st && decide (chan < 32) && decide (bank < 32) && decide (row < 4096)
/-- Symbol errors of a burst: 144 symbols of 8 bits (R252). -/
def errsOk (errs : List (Nat × Nat)) : Bool := errs.all (fun e => decide (e.1 < 144) && decide (e.2 < 256))
/-- One temperature for each of the 24 stacks (R263). -/
def tempsOk (temps : List Nat) : Bool := temps.length == 24
/-- A page record of the table (R189). -/
def recOk (r : Nat) : Bool := decide (r < 4194304)
def arbiterOk : Arbiter → Bool
  | .channel st ch => stackOk st && decide (ch < 32)
  | .host => true
/-- UCIe modules and rates in GT/s; no module is no rate (R399). -/
def ucieOk (modules rate : Nat) : Bool :=
  decide (modules ≤ 4) && (if modules = 0 then rate == 0 else [4, 8, 12, 16, 24, 32].contains rate)
/-- VMIN lies between 0.62 V and 0.80 V in steps of 5 mV (R372); the identity check has three outcomes (R466, R468). -/
def romOk (r : RomResult) : Bool := decide (620 ≤ r.vmin) && decide (r.vmin ≤ 800) && r.vmin % 5 == 0 && decide (r.identity ≤ 2)

/-- Can the command reach the device. -/
def Instr.wf : Instr → Bool
  | .ownerWrite .. | .chimeStatusWrite .. | .chimeMaskWrite .. | .apertureBaseWrite .. | .supplyStatusWrite ..
  | .holdStatusWrite .. | .beatNumberLoRead .. | .warmReg .. => true
  | .registerWrite off data => bar0Ok off data.length
  | .bar2Read off n => bar2Ok off n
  | .bar2Write off data => bar2Ok off data.length
  | .d3hot .. | .i3cSetdasa .. | .i3cPrivateWrite .. | .i3cPrivateRead .. | .info .. | .telemetry ..
  | .eventLogRead .. | .imageRead .. | .imageWrite .. | .imageCommit .. | .imageRevert .. | .attest ..
  | .identityCert .. | .ownerKeySet .. | .patternLoad .. | .patternVerify .. | .patternStart .. | .patternStop ..
  | .rudimentLoad .. | .seqOpen .. | .seqAppend .. | .seqClose .. | .seqLengths .. | .stepRun .. | .stepCommit ..
  | .stepAbort .. | .tierPrefetch .. | .tierEvict .. | .tierPin .. | .tierUnpin .. | .carillonForm ..
  | .planeSwitch .. | .shrink .. | .carillonLeave .. | .latenessRead .. | .twinPair .. | .twinResync ..
  | .twinUnpair .. | .twinMode .. | .selftest .. => true
  | .calibrate _ _ found => lanesOk found.lanes
  | .policySet .. | .policyGet .. | .beatSync .. | .resetWarm .. | .holdEnter .. | .holdExit .. | .g1Info ..
  | .g1Status .. | .logRead .. | .cfgRead .. | .cfgWrite .. | .cfgCommit .. | .modelLoad .. | .modelCheck ..
  | .runStart .. | .runStop .. | .seqNew .. | .seqPut .. | .seqFree .. | .seqLen .. | .infer .. | .accept ..
  | .cancel .. | .test .. => true
  | .trim _ _ found => lanesOk found.lanes
  | .reset .. | .dispatch .. | .nop .. | .opEnd .. | .gong .. | .gongArrival .. | .gongRelease .. | .bndset ..
  | .bndload .. | .boundRegisterLoad .. | .wctrArm .. | .mxuOp .. | .attn .. | .vuOp .. | .exp .. | .exp2 .. | .log ..
  | .log2 .. | .rcp .. | .rsqrt .. | .rud .. | .rsuOp .. | .refmax .. | .merge .. | .lwadd .. | .lwround ..
  | .rollscale .. | .copy .. | .mcast .. | .fetch .. | .tileStart .. | .wctrDraw .. | .rescueMark .. | .tileCommit ..
  | .coreCompletion .. | .waitTimeout .. | .streamResume .. | .repairLimit .. => true
  | .burstRewrite burst => dramOk (burst * 128) 1
  | .stepDone .. | .prepareNotice .. | .prepareAck .. | .vote .. | .decision .. | .decisionAck .. | .voteLost ..
  | .decisionLost .. | .knellNotice .. | .quietSend .. | .quietNotice .. | .quiesced .. | .quiesceTimeout ..
  | .selfcheck .. | .formNotice .. | .formed .. | .formFail .. | .formTimeout .. | .leaveNotice ..
  | .latenessWindow .. | .windowRecord .. | .message .. | .controlSignal .. | .haltNotice .. | .resumeNotice ..
  | .roleNotice .. | .roleTimeout .. | .holdNotice .. | .chunk .. | .chunkCombine .. | .spillService .. | .chunkAck ..
  | .chunkNak .. | .dataFlit .. | .idleFlit .. | .nak .. | .ackStall .. | .laneLockLoss .. | .retrainComplete .. => true
  | .mirrorWrite addr data _ => dramOk addr data.length
  | .mirrorFail .. | .refetchRequest .. | .refetchReply .. | .resyncUnit .. => true
  | .beatEdge _ temps => tempsOk temps
  | .beatMiss _ temps => tempsOk temps
  | .refreshWindow .. => true
  | .longWindow _ lanes _ => lanesOk lanes
  | .windowEnd .. | .coreWake .. | .clockGate .. => true
  | .granuleGrant a _ => arbiterOk a
  | .dramRead addr errs => dramOk addr 1 && errsOk errs
  | .scrubRead addr errs => dramOk addr 1 && errsOk errs
  | .rowSpared stack chan bank row => rowOk stack chan bank row
  | .frameRetireCopy rec => recOk rec
  | .promotionComplete .. | .promotionError .. | .evictionComplete .. | .evictionError .. | .lastWriteDone ..
  | .forcedEvictionTimeout .. | .supplySwitch .. | .supplyReturn .. | .backupTime .. | .pwrgd .. | .pwrgdRise ..
  | .rail .. | .holdAutoExit .. => true
  | .holdExitComplete modules rate _ _ => ucieOk modules rate
  | .supplySag .. | .clockStretch .. | .powerSample .. | .thermalSample .. => true
  | .thermtrip stack _ => stack.all stackOk
  | .powerOn .. | .resetN .. | .watchdog .. => true
  | .romCheck r _ => romOk r
  | .image .. => true
  | .dramTrain fails lanes _ => fails.all (fun f => stackOk f.1 && decide (f.2 < 32)) && lanesOk lanes
  | .linkTrain modules rate _ _ _ => ucieOk modules rate
  | .phaseLimit .. | .hifLinkDown .. => true
  | .ucieRetrainComplete modules rate => ucieOk modules rate
  | .msixTableWrite off data => msixOk off data.length
  | .resetNDeassert .. | .testAccessPort .. | .clockFullRate .. | .sagEnd .. | .cpStateChange .. | .ptPauseEnd ..
  | .d0Return .. => true

end Sys2Proof
end

