-- ==== Sys2Proof/Machine/Ops.lean ====
section
/-!
DEFINITION. Named operations over the state: register files, time, events, telemetry, policy values,
chimes and the mailbox protocol (R402 to R430, R441). A command in a mailbox is run by `serve`.
-/
namespace Sys2Proof.Machine

/-- A command whose operands name no unit of the device stops (Instr.wf). -/
def guardUnit (ok : Bool) (s : State) : Host.Outcome State Fault Refusal := if ok then .next s else .fault .noSuchUnit

/-! ## Units -/

def Port.idx : Port → Nat
  | .pxp => 0 | .pxn => 1 | .pyp => 2 | .pyn => 3 | .pzp => 4 | .pzn => 5 | .pt => 6

def allPorts : List Port := [.pxp, .pxn, .pyp, .pyn, .pzp, .pzn, .pt]
def torusPorts : List Port := [.pxp, .pxn, .pyp, .pyn, .pzp, .pzn]
def Port.ofIdx (i : Nat) : Port := allPorts.getD i .pt

/-- Engine codes of Table 2.6. -/
def Engine.code : Engine → Nat
  | .mxu => 1 | .vu => 2 | .sfu => 3 | .rsu => 4 | .lwu => 5 | .tmv => 6

def Pair.idx : Pair → Nat
  | .vaon => 0 | .vdram => 1 | .vpp => 2

def Rail.idx : Rail → Nat
  | .vcore => 0 | .vsram => 1 | .vfab => 2 | .vddqM => 3 | .vser => 4 | .vserHi => 5 | .vucie => 6

def State.core (s : State) (c : Nat) : Core := Table.get Core.init s.cores c
def State.setCore (s : State) (c : Nat) (k : Core) : State :=
  { s with cores := Table.set Core.init s.cores c k }
def State.updCore (s : State) (c : Nat) (f : Core → Core) : State := s.setCore c (f (s.core c))

def portInit (i : Nat) : PortS := if i = 6 then PortS.initPt else PortS.init
/-- A port's state; every port starts down with full credits (R287, Table 11.5). -/
def State.port (s : State) (p : Port) : PortS :=
  match Table.find s.ports (Port.idx p) with
  | some x => x
  | none => portInit (Port.idx p)
def State.setPort (s : State) (p : Port) (x : PortS) : State :=
  { s with ports := Table.put s.ports (Port.idx p) x }
def State.updPort (s : State) (p : Port) (f : PortS → PortS) : State := s.setPort p (f (s.port p))

def State.box (s : State) (n : Nat) : Mbox := Table.get Mbox.init s.mb.box n
def State.setBox (s : State) (n : Nat) (b : Mbox) : State :=
  { s with mb := { s.mb with box := Table.set Mbox.init s.mb.box n b } }

def State.emit (s : State) (o : Out) : State := { s with out := s.out ++ [o] }

/-- The model's clock never runs backwards (log 2). -/
def State.at (s : State) (t : Nat) : State := { s with now := max s.now t }

/-! ## Beat stamps, events, telemetry -/

/-- Beat phase in units of 10 ns (Table 9.2). -/
def State.phase (s : State) : Nat := min ((s.now - s.beat.start) / 10) 99999

/-- BEAT_NUMBER is 48 bits (R238). -/
def State.beatNo (s : State) : Nat := s.beat.num % 2 ^ 48

/-- Beat number and phase as one number: of two, the smaller is the older (R198, Table 9.2). -/
def State.beatStamp (s : State) : Nat := s.beatNo * 100000 + s.phase

/-- Event sources (Table 14.5): 0 CP, 1 core, 2 port, 3 stack, 4 mailbox, 5 supply monitor. -/
def State.logEvent (s : State) (kind index code d0 d1 : Nat) : State :=
  let key := kind * 64 + index
  let seq := Table.get 0 s.ev.seqs key
  let r : EvRec := ⟨kind, index, seq, code, s.beatNo, s.phase, d0 % 2 ^ 32, d1 % 2 ^ 64⟩
  let recs := s.ev.recs ++ [r]
  { s with ev := { s.ev with
      recs := if recs.length ≤ 16384 then recs else recs.drop 1, next := s.ev.next + 1,
      seqs := Table.set 0 s.ev.seqs key ((seq + 1) % 2 ^ 32) } }

def State.logCp (s : State) (code d0 d1 : Nat) : State := s.logEvent 0 0 code d0 d1

/-- An event that its source logs at most once per beat (R267, R282, R329, R396). -/
def State.logOnce (s : State) (kind index code d0 d1 key : Nat) : State :=
  if s.ev.marks.contains (code, key) then s
  else
    let s := { s with ev := { s.ev with marks := (code, key) :: s.ev.marks } }
    s.logEvent kind index code d0 d1

/-- A TELEMETRY counter: page and counter number (Table 18.4). -/
def teleKey (page n : Nat) : Nat := page * 1024 + n
def State.count (s : State) (page n k : Nat) : State :=
  { s with tele := Table.upd 0 s.tele (teleKey page n) (· + k) }
def State.teleMax (s : State) (page n v : Nat) : State :=
  { s with tele := Table.upd 0 s.tele (teleKey page n) (max v) }

/-- The next `n` free bytes (log 8). -/
def State.freeBytes (s : State) (n : Nat) : List Byte := (List.range n).map (fun i => Config.freeByte (s.free + i))
def State.drew (s : State) (n : Nat) : State := { s with free := s.free + n }

/-! ## Image fields and policy values -/

/-- Factory values of the integer fields (Table 19.3). -/
def factory : Nat → Nat
  | 0x0010 => 20 | 0x0011 => 0 | 0x0012 => 450 | 0x0013 => 620
  | 0x0020 => 100000 | 0x0021 => 10000 | 0x0022 => 5000 | 0x0023 => 2000
  | 0x0030 => 256 | 0x0031 => 20 | 0x0032 => 5 | 0x0040 => 1024 | 0x0041 => 3 | 0x0042 => 5
  | 0x0050 => 0 | 0x0051 => 62 | 0x0052 => 24 | 0x0053 => 3
  | 0x0100 => 1 | 0x0101 => 0x20 | 0x0102 => 4 | 0x0103 => 32 | 0x0110 => 0x7F
  | 0x0111 | 0x0112 | 0x0113 | 0x0114 | 0x0115 | 0x0116 | 0x0117 => 0x00FAC688
  | 0x0120 => 100 | 0x0130 => 0 | 0x0131 => 1 | 0x0140 => 100 | 0x0141 => 90
  | 0x0150 => 2 | 0x0160 => 0 | 0x0171 => 1 | _ => 0

/-- The resolved value of an image field (R448). -/
def State.field (s : State) (key : Nat) : Nat := (Table.get none s.img.fields key).getD (factory key)

/-- The value in force of a policy key: POLICY_SET's, else the image's (R441). -/
def State.policy (s : State) (key : Nat) : Nat := (Table.get none s.pol.values key).getD (s.field key)

/-- A policy value set: it takes effect at the next beat, LATE_WINDOW at the next window (R441, Table 18.8). -/
def State.queuePolicy (s : State) (key v : Nat) : State :=
  if key = 0x0040 then { s with pol := { s.pol with late := s.pol.late ++ [(key, v)] } }
  else { s with pol := { s.pol with next := s.pol.next ++ [(key, v)] } }

/-- Beat period in ns (R235). -/
def State.period (s : State) : Nat := s.field 0x0120 * 1000
/-- Is profile L in force (R132). -/
def State.profileL (s : State) : Bool := s.field 0x0160 == 1

/-! ## Chimes -/

/-- Bit n of a 64-bit mask. -/
def hasBit (w n : Nat) : Bool := w.testBit n
def setBit (w n : Nat) : Nat := w ||| (1 <<< n)
def clearBits (w m : Nat) : Nat := w &&& (0xFFFFFFFFFFFFFFFF ^^^ (m % 2 ^ 64))

/-- Is vector n masked in the MSI-X table (R401, R413): bit 0 of its vector control. -/
def State.vectorMasked (s : State) (n : Nat) : Bool := (s.pcie.table.read (16 * n + 12)).toNat % 2 == 1

def State.suppressed (s : State) (n : Nat) : Bool := hasBit s.bar.chimeMask n || s.vectorMasked n

/-- Post a chime at once: CHIME_STATUS bit, then its message unless suppressed (R413). -/
def State.postChime (s : State) (n : Nat) (quiet : Bool) : State :=
  let s := { s with bar := { s.bar with chimeStatus := setBit s.bar.chimeStatus n } }
  if quiet then s
  else if s.suppressed n then { s with pcie := { s.pcie with held := s.pcie.held.insert n } }
  else if s.hif.up then s.emit (.msix n) else s

/-- In-band interrupt for mailbox 63 and for event chimes to it (R419). -/
def State.ibi (s : State) (n : Nat) (event : Bool) : State :=
  if n = 63 && s.i3c.ibiEn && s.i3c.dynAddr.isSome then s.emit (.ibi (n + (if event then 128 else 0))) else s

/-- A chime; in hold its posting waits for hold exit (R380). `key` + 64 marks a QUIET one. -/
def State.chime (s : State) (n : Nat) (quiet event : Bool) : State :=
  let s := s.ibi n event
  if s.cp.phase = 5 then
    { s with mb := { s.mb with heldChimes := s.mb.heldChimes ++ [n + (if quiet then 64 else 0)] } }
  else s.postChime n quiet

/-- A chime that no command causes (R414). -/
def State.eventChime (s : State) : State := s.chime (s.policy 0x0051) false true

/-- Send the held messages whose last mask has cleared (R413). -/
def State.releaseChimes (s : State) : State :=
  s.pcie.held.foldl (fun s n =>
    if s.suppressed n then s
    else
      let s := { s with pcie := { s.pcie with held := NatSet.remove s.pcie.held n } }
      if hasBit s.bar.chimeStatus n && s.hif.up then s.emit (.msix n) else s) s

/-! ## Host memory as the device reaches it (R202, R211, R400, R401) -/

/-- May the device reach host memory now. -/
def State.hostUp (s : State) : Bool := s.hif.up && s.pcie.busMaster

/-- Does any byte of the range answer with an error. -/
def State.hostBad (s : State) (a n : Nat) : Bool :=
  !s.hostUp || s.host.bad.any (fun u => decide (a / 256 ≤ u) && decide (u ≤ (a + n - 1) / 256))

def State.hostRead (s : State) (a n : Nat) : Option (List Byte) :=
  if n = 0 then some [] else if s.hostBad a n then none else some (s.host.bytes.readN a n)

def State.hostWrite (s : State) (a : Nat) (bs : List Byte) : Option State :=
  if bs.isEmpty then some s
  else if s.hostBad a bs.length then none
  else some { s with host := { s.host with bytes := s.host.bytes.writeN a bs } }

/-! ## Status codes (Table 18.1) -/

def stOk := 0x0000
def stPartial := 0x0001
def stBusy := 0x0002
def stRejected := 0x0003
def stBadGen := 0x0004
def stBadOpcode := 0x0005
def stBadArg := 0x0006
def stNoResource := 0x0007
def stAuthFail := 0x0008
def stKnell := 0x0009
def stTimeout := 0x000A
def stPoisoned := 0x000B
def stDeferred := 0x000C
def stNotInState := 0x000D

/-! ## Mailboxes -/

def Mbox.op (b : Mbox) : Nat := b.opflags.toNat % 65536
def Mbox.flags (b : Mbox) : Nat := b.opflags.toNat / 65536
/-- In GEN 1 FLAGS are ignored (R415). -/
def Mbox.sgl (b : Mbox) : Bool := b.gen.toNat != 1 && bitAt b.flags 1
def Mbox.quiet (b : Mbox) : Bool := b.gen.toNat != 1 && bitAt b.flags 0
/-- The payload bytes; offset 0 is mailbox offset 0x020. -/
def Mbox.pay (b : Mbox) (n : Nat) : List Byte := b.payload.readN 0 n

/-- A scatter list: input and output entries (address, length) (Table 17.10). -/
structure Sgl where
  ins : List (Nat × Nat)
  outs : List (Nat × Nat)
  deriving DecidableEq, Repr

/-- Lengths are multiples of 256, except the last entry of each list (R417). -/
def sglListOk : List (Nat × Nat) → Bool
  | [] => true
  | [(a, n)] => a % 256 == 0 && decide (1 ≤ n) && decide (n ≤ 2 ^ 31)
  | (a, n) :: t => a % 256 == 0 && n % 256 == 0 && decide (1 ≤ n) && decide (n ≤ 2 ^ 31) && sglListOk t

def Mbox.sglOf (b : Mbox) : Option Sgl :=
  let h0 := b.payload.readLe 0 8
  let nin := fld h0 15 0
  let nout := fld h0 47 32
  let ent (i : Nat) : Nat × Nat := (b.payload.readLe (16 + 16 * i) 8, b.payload.readLe (16 + 16 * i + 8) 4)
  let rsv (i : Nat) : Nat := b.payload.readLe (16 + 16 * i + 12) 4
  if fld h0 31 16 ≠ 0 || fld h0 63 48 ≠ 0 || b.payload.readLe 8 8 ≠ 0 then none
  else if b.length.toNat ≠ 16 * (1 + nin + nout) then none
  else if (List.range (nin + nout)).any (fun i => rsv i != 0) then none
  else
    let ins := (List.range nin).map ent
    let outs := (List.range nout).map (fun i => ent (nin + i))
    if sglListOk ins && sglListOk outs then some ⟨ins, outs⟩ else none

/-- Read the pieces of a list of host ranges. -/
def State.gather (s : State) : List (Nat × Nat) → Option (List Byte)
  | [] => some []
  | (a, n) :: t => match s.hostRead a n, State.gather s t with
    | some x, some y => some (x ++ y)
    | _, _ => none

/-- Write bytes over a list of host ranges; bytes beyond the list are dropped. -/
def State.scatter (s : State) : List (Nat × Nat) → List Byte → Option State
  | [], _ => some s
  | (a, n) :: t, bs => if bs.isEmpty then some s else match s.hostWrite a (bs.take n) with
    | some s' => State.scatter s' t (bs.drop n)
    | none => none

/-- Write STATUS, RESULT_LEN, RESULT_BITMAP and the payload, return the mailbox and chime (R412). -/
def State.finish (s : State) (n code detail len bitmap : Nat) (pay : List Byte) : State :=
  let b := s.box n
  let b := { b with
    owner := 2, status := BitVec.ofNat 32 (code + detail * 65536), resultLen := BitVec.ofNat 32 len,
    bitmap := BitVec.ofNat 32 bitmap, payload := b.payload.writeN 0 (pay.take 4064) }
  let s := s.setBox n b
  let s := { s with mb := { s.mb with
    order := s.mb.order.filter (· != n), jobs := s.mb.jobs.filter (fun j => j.n != n) } }
  s.chime n b.quiet false

/-- Complete a command with its result (R412, R417, R424). -/
def State.reply (s : State) (n code detail : Nat) (bytes : List Byte) (bitmap : Nat) : State :=
  let b := s.box n
  if b.sgl then
    match b.sglOf with
    | none => s.finish n stBadArg 0 0 0 []
    | some l =>
      let room := (l.outs.map Prod.snd).foldl (· + ·) 0
      match s.scatter l.outs bytes with
      | none => s.finish n stRejected 1 0 0 []
      | some s' => s'.finish n code (if room < bytes.length then 2 else detail) bytes.length bitmap []
  else s.finish n code (if 4064 < bytes.length then 2 else detail) bytes.length bitmap bytes

/-- Complete with a status and no result. -/
def State.fail (s : State) (n code : Nat) : State := s.reply n code 0 [] 0
def State.failD (s : State) (n code detail : Nat) : State := s.reply n code detail [] 0
def State.okWords (s : State) (n : Nat) (ws : List Nat) : State := s.reply n stOk 0 (bytes64 ws) 0

/-- Generation in which an opcode is defined: 2, 3, or none (Table 18.2). -/
def opGen (op : Nat) : Option Nat :=
  if op ∈ [0x01, 0x02, 0x03, 0x10, 0x11, 0x12, 0x13, 0x20, 0x21, 0x22, 0x30, 0x31, 0x32, 0x33, 0x34,
           0x40, 0x41, 0x42, 0x43, 0x50, 0x51, 0x52, 0x60, 0x61, 0x62, 0x63, 0x90, 0x91, 0xF0, 0xF1, 0xF2]
  then some 2
  else if op ∈ [0x70, 0x71, 0x72, 0x73, 0x80, 0x81, 0x82, 0x83, 0xA0, 0xA1, 0xA2] then some 3
  else none

/-- Opcodes of G1 (Table 18.9). -/
def g1Defined (op : Nat) : Bool :=
  [0x01, 0x02, 0x03, 0x08, 0x09, 0x0A, 0x10, 0x11, 0x12, 0x13, 0x20, 0x21, 0x22, 0x23, 0x30, 0x31, 0x32,
   0x40, 0x41, 0x7F].contains op

/-- The G2 command that a G1 opcode acts as (R443). -/
def g1As : Nat → Nat
  | 0x01 => 0x01 | 0x02 => 0x02 | 0x03 => 0x03 | 0x08 => 0x10 | 0x09 => 0x11 | 0x0A => 0x12
  | 0x10 => 0x30 | 0x11 => 0x31 | 0x12 => 0x32 | 0x13 => 0x33 | 0x20 => 0x40 | 0x21 => 0x41
  | 0x22 => 0x42 | 0x23 => 0x43 | 0x30 => 0x50 | 0x31 => 0x51 | 0x32 => 0x52 | 0x40 => 0x90
  | 0x41 => 0x91 | _ => 0xF0

/-- The command a mailbox holds, as a G2 opcode. -/
def Mbox.g2op (b : Mbox) : Nat := if b.gen.toNat = 1 then g1As (b.op % 256) else b.op

/-- Commands served before READY and in STOPPED, on mailbox 63 (R416, Table 18.2 column B). -/
def beforeReady (op : Nat) : Bool := [0x01, 0x02, 0x03, 0x10, 0x11, 0x12, 0x13, 0xF0].contains op
/-- Commands accepted in hold (R382, Table 18.2 column H). -/
def inHold (op : Nat) : Bool := [0x01, 0x02, 0x03, 0xA1, 0xF2].contains op

/-- Does the device run: started, and no thermal trip stands (R395, R483). -/
def State.live (s : State) : Bool := s.cp.started && !s.cp.tripped
/-- Do the BARs answer the host (R400, R401). -/
def State.barOpen (s : State) : Bool := s.live && s.hif.up && !s.pcie.d3hot

/-- Is the mailbox served in the present phase (R382, R416). -/
def State.served (s : State) (n : Nat) : Bool := s.live && (s.cp.phase == 4 || n == 63)

/-- May the command run in the present phase. -/
def State.phaseAllows (s : State) (op : Nat) : Bool :=
  if s.cp.phase = 4 then op != 0xF2 else if s.cp.phase = 5 then inHold op else beforeReady op

/-- Checks 1 to 4 of R415, but for the reserved bits of arguments: the status of the first failure met. Of FLAGS only [7:2]
are reserved: FLAGS.CMD of a command that defines no flags is ignored (log 111, DESIGN CHOICE). -/
def State.frontStatus (s : State) (n : Nat) : Option Nat :=
  let b := s.box n
  let g := b.gen.toNat
  if g < 1 || 3 < g then some stBadGen
  else if g = 1 then
    if !g1Defined (b.op % 256) then some stBadOpcode
    else if 4064 < b.length.toNat then some stBadArg
    else none
  else match opGen b.op with
    | none => some stBadOpcode
    | some m =>
      if g < m then some stBadGen
      else if 4064 < b.length.toNat || fld b.flags 7 2 ≠ 0 then some stBadArg
      else none

/-- Take a mailbox whose OWNER is 1: complete it at once when R415's first checks fail. -/
def State.take (s : State) (n : Nat) : State :=
  if s.served n then
    match s.frontStatus n with
    | some c => { s with } |>.finish n c 0 0 0 []
    | none => s
  else s

/-- The groups of R428, whose commands run one at a time in take order. -/
def opGroup (op : Nat) : Nat :=
  if op ∈ [0x10, 0x11, 0x12, 0x13, 0x22] then 1
  else if op ∈ [0x30, 0x31, 0x32, 0x33, 0x34] then 2
  else if op ∈ [0x70, 0x71, 0x72, 0x73] then 3
  else if op ∈ [0x80, 0x81, 0x82, 0x83] then 4
  else if op ∈ [0x90, 0x91] then 5
  else if op ∈ [0x20, 0x21] then 6
  else 0

/-- Mailboxes taken before mailbox n whose commands have not completed (R411). -/
def State.before (s : State) (n : Nat) : List Nat := s.mb.order.takeWhile (· != n)

/-- No earlier command of the same group waits or runs (R411, R428). -/
def State.firstOfGroup (s : State) (n : Nat) : Bool :=
  let g := opGroup (s.box n).g2op
  g == 0 || (s.before n).all (fun m => opGroup (s.box m).g2op != g)

/-- The argument bytes of a command: from the payload, or through the scatter list (R417, R423). -/
inductive Args where
  | ok (bytes : List Byte)
  | bad
  | hostErr
  deriving DecidableEq, Repr

def State.argsOf (s : State) (n : Nat) : Args :=
  let b := s.box n
  if b.sgl then
    match b.sglOf with
    | none => .bad
    | some l => match s.gather l.ins with
      | some bs => .ok bs
      | none => .hostErr
  else .ok (b.pay b.length.toNat)

/-- Word An of the argument bytes (R423); 0 beyond them. -/
def argW (bs : List Byte) (i : Nat) : Nat := leNat ((bs.drop (8 * i)).take 8)

/-- Word Wn of a G1 command (R443). -/
def argG1 (bs : List Byte) (i : Nat) : Nat := leNat ((bs.drop (4 * i)).take 4)

/-- Bits [hi:0] of word Wn of a G1 command; its reserved bits are ignored (R9). -/
def g1F (bs : List Byte) (i hi : Nat) : Nat := fld (argG1 bs i) hi 0

/-- Key of a region page in the region maps (R188). -/
def mapKey (seq page : Nat) : Nat := seq * 2 ^ 22 + page

/-- The sequences that a sequence command of mailbox n names, with the one whose prefix it shares (Tables 18.7, 18.9). -/
def State.seqsNamed (s : State) (n : Nat) : List Nat :=
  let b := s.box n
  match s.argsOf n with
  | .ok bs =>
    if b.gen.toNat = 1 then (if [0x20, 0x21, 0x22].contains (b.op % 256) then [g1F bs 0 7] else [])
    else if [0x40, 0x41, 0x42].contains b.op then
      fld (argW bs 0) 15 0 :: (if b.op == 0x40 && bitAt (argW bs 0) 16 then [fld (argW bs 0) 31 20] else [])
    else []
  | _ => []

/-- The page records that a tier command of mailbox n touches (R437). -/
def State.recsTouched (s : State) (n : Nat) : List Nat :=
  let b := s.box n
  match s.argsOf n with
  | .ok bs =>
    let lo := mapKey (fld (argW bs 0) 15 0) (fld (argW bs 0) 63 32)
    if b.gen.toNat != 1 && [0x60, 0x61, 0x62, 0x63].contains b.op then
      s.kv.map.filterMap (fun e =>
        if decide (lo ≤ e.1) && decide (e.1 < lo + fld (argW bs 1) 31 0) && e.2 != 0 then some (e.2 - 1) else none)
    else []
  | _ => []

/-- No earlier sequence command of the same sequence, and no earlier tier command on the same page record, is still to begin
(R411, R428). -/
def State.firstOfObject (s : State) (n : Nat) : Bool :=
  ((s.before n).filter (fun m => s.mb.jobs.all (fun j => j.n != m))).all (fun m =>
    (s.seqsNamed m).all (fun q => !(s.seqsNamed n).contains q) && (s.recsTouched m).all (fun r => !(s.recsTouched n).contains r))

/-- May a command of mailbox n begin now: served, its first checks passed, not begun. An image command that hold entry
met goes on (Table 16.6). -/
def State.mayBegin (s : State) (n : Nat) : Bool :=
  (s.served n && (s.frontStatus n).isNone && s.mb.jobs.all (fun j => j.n != n)) ||
  (s.live && s.mb.jobs.any (fun j => j.n == n && j.kind == .image))

/-- Does mailbox n hold this command, handed over, not yet begun, and first of its group and on its objects. -/
def State.holds (s : State) (n : Nat) (g1 : Bool) (op : Nat) : Bool :=
  let b := s.box n
  b.owner.toNat == 1 && s.mayBegin n &&
  (if g1 then b.gen.toNat == 1 && b.op % 256 == op else b.gen.toNat != 1 && b.op == op) && s.firstOfGroup n && s.firstOfObject n

/-- Bits outside the masks of the fixed argument words are reserved (R415, R423). -/
def reservedOk (bs : List Byte) (masks : List Nat) : Bool :=
  (List.range masks.length).all (fun i => (argW bs i) &&& (0xFFFFFFFFFFFFFFFF ^^^ masks.getD i 0) == 0)

/-- Is the command allowed in the present phase (R427), or an image command that hold entry met. -/
def State.allowed (s : State) (n op : Nat) : Bool :=
  s.phaseAllows op || s.mb.jobs.any (fun j => j.n == n && j.kind == .image)

/-- Run a G2 or G3 command held in mailbox n (R411, R415). The row's command changes nothing where the
mailbox does not hold it (log 3). -/
def State.serve (s : State) (n op : Nat) (masks : List Nat) (k : State → List Byte → State) : State :=
  if s.holds n false op then
    match s.argsOf n with
    | .bad => s.finish n stBadArg 0 0 0 []
    | .hostErr => s.finish n stRejected 1 0 0 []
    | .ok bs =>
      if !reservedOk bs masks then s.fail n stBadArg
      else if s.allowed n op then k s bs
      else s.fail n stNotInState
  else s

/-- Run a G1 command held in mailbox n (R411, R415). Reserved bits of its words are ignored (R9). -/
def State.serveG1 (s : State) (n op : Nat) (k : State → List Byte → State) : State :=
  if s.holds n true op then
    match s.argsOf n with
    | .ok bs => if s.allowed n (g1As op) then k s bs else s.fail n stNotInState
    | _ => s
  else s

/-- Mask of the low n bits, shifted. -/
def bits (hi lo : Nat) : Nat := (2 ^ (hi + 1 - lo) - 1) <<< lo
def allBits : Nat := 0xFFFFFFFFFFFFFFFF

/-! ## Units of split commands (R349, R350, R425) -/

/-- Status of a split command: OK, PARTIAL, or that of the lowest failed unit (R349). -/
def splitStatus (sts : List Nat) : Nat :=
  if sts.all (· == 0) then stOk
  else if sts.any (· == 0) then stPartial
  else (sts.find? (· != 0)).getD stOk

def okMask (sts : List Nat) : Nat :=
  maskOf ((List.range sts.length).filter (fun i => sts.getD i 1 == 0))

/-- The unit block of a command with more than 32 units (R425). -/
def unitBlock (sts : List Nat) : List Byte :=
  if sts.length ≤ 32 then []
  else
    let m := okMask sts
    let bm := natLe (8 * ceilDiv sts.length 64) m
    let body := sts.flatMap (natLe 2)
    bm ++ body ++ List.replicate (roundUp body.length 8 - body.length) 0#8

/-- Complete a split command from its unit statuses. -/
def State.replyUnits (s : State) (n : Nat) (sts : List Nat) (result : List Byte) : State :=
  s.reply n (splitStatus sts) 0 (unitBlock sts ++ result) (okMask sts % 2 ^ 32)

/-! ## Membership -/

def CarRec.self (r : CarRec) : Nat := fld (r.desc.getD 1 0) 31 16
def CarRec.cid (r : CarRec) : Nat := fld (r.desc.getD 1 0) 63 32
def CarRec.sw (r : CarRec) : Nat := fld (r.desc.getD 2 0) 63 48
def CarRec.ssize (r : CarRec) : Nat := fld (r.desc.getD 2 0) 47 40 + 1
def CarRec.tsize (r : CarRec) : Nat := fld (r.desc.getD 2 0) 39 32 + 1
def CarRec.count (r : CarRec) : Nat := r.tsize * r.ssize * r.sw
/-- Axis indices of member m (R291): tensor, stage, sequence. -/
def CarRec.axes (r : CarRec) (m : Nat) : Nat × Nat × Nat :=
  (m % r.tsize, m / r.tsize % r.ssize, m / (r.tsize * r.ssize))

/-- The carillon record of a member. -/
def State.memberRec (s : State) : Option CarRec := if s.car.member then s.car.rec? else none
/-- Own member index; a device outside a carillon is its own lead, member 0. -/
def State.selfIdx (s : State) : Nat := match s.memberRec with | some r => r.self | none => 0
def State.memberCount (s : State) : Nat := match s.memberRec with | some r => r.count | none => 1
def State.isLead (s : State) : Bool := s.selfIdx == 0
def State.members (s : State) : List Nat := List.range s.memberCount

/-- A notice to every member; one addressed to the device itself is emitted too and comes back as its own
row (log 20). -/
def State.noticeAll (s : State) (name : String) (args : List Nat) : State :=
  s.members.foldl (fun s m => s.emit (.notice name m args)) s
def State.notice (s : State) (name : String) (dest : Nat) (args : List Nat) : State := s.emit (.notice name dest args)

/-- Carillon identifier, 0 outside a carillon. -/
def State.cid (s : State) : Nat := match s.memberRec with | some r => r.cid | none => 0
/-- A carillon event, with CID (R314). -/
def State.logCar (s : State) (code d1 : Nat) : State := s.logCp code s.cid d1

/-- The twin status word (Table 15.1). -/
def Twin.word (t : Twin) : Nat :=
  place t.cause 32 + place t.wmark 24 + place (b2n t.valid) 20 + place t.role 18 + place t.mode 16 + t.st

def Twin.current (t : Twin) : Bool := t.st == 1
def Twin.mirroring (t : Twin) : Bool := t.st == 1 && t.mode == 0 && t.role == 1
def Twin.shadow (t : Twin) : Bool := t.st == 1 && t.mode == 1

/-- A CP state change sent to a current twin in MIRROR mode (Table 15.3). -/
def State.tellTwin (s : State) (name : String) (args : List Nat) (bytes : List Byte) : State :=
  if s.twin.mirroring then s.emit (.ptNotice name args bytes) else s

def State.hdr (s : State) (seq : Nat) : List Nat := Table.get [] s.kv.hdrs seq
def State.lens (s : State) (seq : Nat) : Lens := Table.get Lens.init s.kv.lens seq

/-- Tell a mirroring twin a sequence's length entry and header (Table 15.3). -/
def State.tellSeq (s : State) (seq : Nat) : State :=
  let l := s.lens seq
  (s.tellTwin "LENS" [seq, l.committed, l.prov, l.maxlen, b2n l.isOpen] []).tellTwin "HEADER" (seq :: s.hdr seq) []

/-- Does an epoch's step run on the device (log 41). -/
def State.running (s : State) : Bool := s.ep.st == .running

def PatState.code : PatState → Nat
  | .none => 0 | .loaded => 1 | .verified => 2 | .started => 3

end Sys2Proof.Machine
end

