-- ==== Sys2Proof/Machine/Nest.lean ====
section
/-!
DEFINITION. The control region of a core (R49, R488), op fields (Table 2.5), loop descriptors (R72 to R75)
and the walk of a loop nest: visiting order, SNAKE, tiles (R82 to R85, R97).
-/
namespace Sys2Proof.Machine

/-! ## The control region -/

/-- Offset and entry count of table k of a core's control region (R488). -/
def ctlTable (k : Core) (i : Nat) : Nat × Nat :=
  match k.ctl with
  | none => (0, 0)
  | some b =>
    let w := k.store.readLe (b + 8 * i) 8
    (b + fld w 63 32, fld w 15 0)

/-- `n` 64-bit words from a store address. -/
def wordsAt (m : Mem) (a n : Nat) : List Nat := (List.range n).map (fun i => m.readLe (a + 8 * i) 8)

def opWords (k : Core) (i : Nat) : List Nat := wordsAt k.store ((ctlTable k 0).1 + 64 * i) 8
def descWords (k : Core) (i : Nat) : List Nat := wordsAt k.store ((ctlTable k 1).1 + 256 * i) 32
def bufWords (k : Core) (i : Nat) : List Nat := wordsAt k.store ((ctlTable k 2).1 + 32 * i) 4
def chainWords (k : Core) (i : Nat) : List Nat := wordsAt k.store ((ctlTable k 3).1 + 64 * i) 8
def plistWords (k : Core) (i : Nat) : List Nat := wordsAt k.store ((ctlTable k 4).1 + 16 * i) 2

/-- Op fields (Table 2.5). -/
def opEngine (w : List Nat) : Nat := fld (w.getD 0 0) 3 0
def opCode (w : List Nat) : Nat := fld (w.getD 0 0) 11 4
def opFclass (w : List Nat) : Nat := fld (w.getD 0 0) 45 44
def opId (w : List Nat) : Nat := fld (w.getD 7 0) 15 0
def opImm (w : List Nat) (i : Nat) : Nat :=
  if i = 0 then fld (w.getD 4 0) 63 32 else if i = 1 then fld (w.getD 5 0) 31 0 else fld (w.getD 5 0) 63 32

/-- A running pattern takes part with these cores: those that it gives an op list (R69). -/
def State.participants (s : State) : List Nat := (List.range 64).filter (fun c => (s.core c).ctl.isSome)

/-! ## Loop descriptors -/

/-- A level entry (Table 3.2); strides by stream A, B, C, X. -/
structure Level where
  bound : Nat
  max : Nat
  src : Nat
  dim : Nat
  step : Nat
  snake : Bool
  stride : List Int
  deriving DecidableEq, Repr

/-- A loop descriptor (Tables 3.1 and 3.2); per-stream items in the order A, B, C, X. -/
structure Desc where
  issue : Nat
  tmv : Nat
  pitch : List Nat
  rows : List Nat
  pad : List Nat
  levels : List Level
  deriving DecidableEq, Repr

def levelOf (w : List Nat) (n : Nat) : Level :=
  let q (i : Nat) : Nat := w.getD (8 + 4 * n + i) 0
  { bound := fld (q 0) 31 0, max := fld (q 0) 63 32, src := fld (q 1) 1 0, dim := fld (q 1) 3 2,
    step := fld (q 1) 19 4, snake := bitAt (q 1) 20,
    stride := [signed 32 (fld (q 2) 31 0), signed 32 (fld (q 2) 63 32),
               signed 32 (fld (q 3) 31 0), signed 32 (fld (q 3) 63 32)] }

def descOf (w : List Nat) : Desc :=
  let q (i : Nat) : Nat := w.getD i 0
  { issue := fld (q 0) 35 18, tmv := fld (q 0) 17 0,
    pitch := [fld (q 1) 31 0, fld (q 1) 63 32, fld (q 2) 31 0, fld (q 2) 63 32],
    rows := [fld (q 3) 1 0, fld (q 3) 3 2, fld (q 3) 5 4, fld (q 3) 7 6],
    pad := [fld (q 4) 31 0, fld (q 4) 63 32, 0, fld (q 5) 31 0],
    levels := (List.range 6).map (levelOf w) }

def Desc.level (d : Desc) (l : Nat) : Level := d.levels.getD l ⟨1, 1, 0, 0, 1, false, [0, 0, 0, 0]⟩
/-- The six level indices of a visiting order, innermost first (R82). -/
def orderOf (o : Nat) : List Nat := (List.range 6).map (fun p => fld o (3 * p + 2) (3 * p))
/-- TMV ops walk TMV_ORDER, every other engine ISSUE_ORDER (R83). -/
def Desc.order (d : Desc) (tmv : Bool) : List Nat := orderOf (if tmv then d.tmv else d.issue)

/-- Iterations of a level with bound b (R73). -/
def iters (b step : Nat) : Nat := ceilDiv b step

/-- Iteration counts in visiting order, for actual bounds by level. -/
def Desc.counts (d : Desc) (order bounds : List Nat) : List Nat :=
  order.map (fun l => iters (bounds.getD l 1) (d.level l).step)

def prod (l : List Nat) : Nat := l.foldl (· * ·) 1

/-- The level that carries a dimension, if any (R74). -/
def Desc.carrier (d : Desc) (dim : Nat) : Option Nat :=
  (List.range 6).find? (fun l => (d.level l).dim == dim && dim != 0)

/-- Level indices of cell p of a walk, by position: digit, reversed on odd passes of a SNAKE level (R85).
`flat` positions (those of TILE_LEVEL and outside it in a drawn tile) never reverse (R97). -/
def walkDigits (d : Desc) (flat : Nat) : List Nat → List Nat → Nat → Nat → List (Nat × Nat × Bool)
  | l :: ls, n :: ns, pos, p =>
    let i := p % n
    let odd := decide (p / n % 2 = 1)
    let rev := (d.level l).snake && odd && decide (pos < flat)
    (l, if rev then n - 1 - i else i, odd && (d.level l).snake) :: walkDigits d flat ls ns (pos + 1) (p / n)
  | _, _, _, _ => []

/-- Indices of the six levels from the digits of a walk, and the mask of levels on an odd SNAKE pass. -/
def indicesOf (ds : List (Nat × Nat × Bool)) : List Nat × Nat :=
  ((List.range 6).map (fun l => ((ds.find? (fun e => e.1 == l)).map (fun e => e.2.1)).getD 0),
   maskOf ((ds.filter (fun e => e.2.2)).map Prod.fst))

def opLoop (w : List Nat) : Nat := fld (w.getD 0 0) 55 48
def opTileLevel (w : List Nat) : Nat := fld (w.getD 3 0) 25 23
def opWctrEn (w : List Nat) : Bool := bitAt (w.getD 0 0) 43
def opWctr (w : List Nat) : Nat := fld (w.getD 0 0) 42 37

/-- Position of TILE_LEVEL in the op's order. -/
def tilePos (order : List Nat) (tl : Nat) : Nat := (order.takeWhile (· != tl)).length

/-- A run's geometry: descriptor, order, iteration counts, cells in a tile, tiles in the nest. -/
structure Geo where
  d : Desc
  order : List Nat
  counts : List Nat
  tp : Nat
  deriving DecidableEq, Repr

def Geo.cells (g : Geo) : Nat := prod (g.counts.take g.tp)
def Geo.tiles (g : Geo) : Nat := prod (g.counts.drop g.tp)

def geoOf (k : Core) (r : Run) : Geo :=
  let w := r.op.w
  let d := descOf (descWords k (opLoop w))
  let o := d.order (opEngine w == 6)
  ⟨d, o, d.counts o r.bounds, tilePos o (opTileLevel w)⟩

/-- Indices of the cell at the run's position (R79, R97): `pos` counts cells of the nest, or cells of the
drawn tile when tiles are drawn. -/
def Geo.indices (g : Geo) (r : Run) (p : Nat) : List Nat × Nat :=
  match r.drawn with
  | some (i, _) => indicesOf (walkDigits g.d g.tp (g.order.take g.tp) (g.counts.take g.tp) 0 p ++
      walkDigits g.d 0 (g.order.drop g.tp) (g.counts.drop g.tp) g.tp i)
  | none => indicesOf (walkDigits g.d 6 g.order g.counts 0 p)

def runWalk (k : Core) (r : Run) : List Nat × Nat := (geoOf k r).indices r r.pos

end Sys2Proof.Machine
end

