-- ==== Sys2Proof/Machine/Crc.lean ====
section
/-!
DEFINITION. CRC-32C and the Reed-Solomon codes of links and DRAM (R252, R253, R270, R271).
CRC-32C takes its usual parameters (log 16): reflected polynomial, all-ones start and end.
-/
namespace Sys2Proof.Machine

def crcBit (c : Nat) : Nat := if c % 2 = 1 then (c >>> 1) ^^^ 0x82F63B78 else c >>> 1
def crcByte (c : Nat) (b : Byte) : Nat :=
  crcBit (crcBit (crcBit (crcBit (crcBit (crcBit (crcBit (crcBit (c ^^^ b.toNat))))))))
/-- CRC-32C of a byte string. -/
def crc32c (bs : List Byte) : Nat := (bs.foldl crcByte 0xFFFFFFFF) ^^^ 0xFFFFFFFF

/-! ## GF(2^8) with x^8 + x^4 + x^3 + x^2 + 1 -/

def gfDouble (a : Nat) : Nat := if a < 128 then 2 * a else (2 * a) ^^^ 0x11D
def gfMulGo : Nat → Nat → Nat → Nat
  | 0, _, _ => 0
  | k + 1, a, b => (if b % 2 = 1 then a else 0) ^^^ gfMulGo k (gfDouble a) (b / 2)
def gfMul (a b : Nat) : Nat := gfMulGo 8 a b
/-- α^n. -/
def gfPow : Nat → Nat
  | 0 => 1
  | n + 1 => gfDouble (gfPow n)
def gfInvGo : Nat → Nat → Nat → Nat
  | 0, _, acc => acc
  | k + 1, a, acc => gfInvGo k (gfMul a a) (gfMul acc (gfMul a a))
/-- a^254 = 1/a. -/
def gfInv (a : Nat) : Nat := gfInvGo 7 a 1
def alpha : List Nat := (List.range 255).map gfPow
def gfA (i : Nat) : Nat := alpha.getD (i % 255) 1

/-- Value of a polynomial, low degree first. -/
def gfEval (p : List Nat) (x : Nat) : Nat := p.foldr (fun c acc => c ^^^ gfMul x acc) 0

/-- Syndromes S_0 … S_(n-1) of an error pattern of (symbol position, value). -/
def syndromes (n : Nat) (errs : List (Nat × Nat)) : List Nat :=
  (List.range n).map (fun i => errs.foldl (fun a e => a ^^^ gfMul e.2 (gfA (i * e.1))) 0)

/-- The position and value of the single symbol error with these syndromes, if there is one (R253). -/
def singleError (len : Nat) (syn : List Nat) : Option (Nat × Nat) :=
  let v := syn.headD 0
  if v = 0 then none
  else ((List.range len).find? (fun p =>
    (List.range syn.length).all (fun i => syn.getD i 0 == gfMul v (gfA (i * p))))).map (fun p => (p, v))

/-! ## Link FEC: two interleaved RS(144, 134) codewords (R271) -/

/-- One step of Berlekamp-Massey: (C, B, L, m, b). -/
def bmStep (syn : List Nat) (st : List Nat × List Nat × Nat × Nat × Nat) (n : Nat) :
    List Nat × List Nat × Nat × Nat × Nat :=
  let (c, b, l, m, bb) := st
  let d := (List.range (l + 1)).foldl (fun a i => a ^^^ gfMul (c.getD i 0) (syn.getD (n - i) 0)) 0
  if d = 0 then (c, b, l, m + 1, bb)
  else
    let k := gfMul d (gfInv bb)
    let xb := List.replicate m 0 ++ b.map (gfMul k)
    let c' := (List.range (max c.length xb.length)).map (fun i => c.getD i 0 ^^^ xb.getD i 0)
    if 2 * l ≤ n then (c', c, n + 1 - l, 1, d) else (c', b, l, m + 1, bb)

/-- Correct at most 5 symbol errors of a 144-symbol codeword, symbol 143 first; none when it does not
decode. The answer lists the corrections by list index. -/
def rsDecode (cw : List Nat) : Option (List (Nat × Nat)) :=
  let errs := (cw.zipIdx.filter (fun e => e.1 != 0)).map (fun e => (143 - e.2, e.1))
  let syn := syndromes 10 errs
  if syn.all (· == 0) then some []
  else
    let (c, _, l, _, _) := (List.range 10).foldl (bmStep syn) ([1], [1], 0, 1, 1)
    let roots := (List.range 144).filter (fun p => gfEval c (gfA (255 - p)) == 0)
    if 5 < l || roots.length ≠ l then none
    else
      let om := (List.range 10).map (fun i =>
        (List.range (i + 1)).foldl (fun a j => a ^^^ gfMul (syn.getD j 0) (c.getD (i - j) 0)) 0)
      let dc := (List.range c.length).map (fun i => if i % 2 = 0 then c.getD (i + 1) 0 else 0)
      let fix := roots.map (fun p =>
        let xi := gfA (255 - p)
        (p, gfMul (gfA p) (gfMul (gfEval om xi) (gfInv (gfEval dc xi)))))
      let syn' := syndromes 10 (errs ++ fix)
      if syn'.all (· == 0) then some (fix.map (fun e => (143 - e.1, e.2))) else none

/-- Codeword of a flit byte (R271). -/
def flitCw (i : Nat) : Nat := (i + i / 8) % 2

/-- Decode a 288-byte flit: the corrected bytes and the byte indices corrected, or none. -/
def flitDecode (raw : List Byte) : Option (List Byte × List Nat) :=
  let bs := ((raw ++ List.replicate 288 0#8).take 288).zipIdx
  let cw (w : Nat) : List (Byte × Nat) := bs.filter (fun e => flitCw e.2 == w)
  match rsDecode ((cw 0).map (fun e => e.1.toNat)), rsDecode ((cw 1).map (fun e => e.1.toNat)) with
  | some f0, some f1 =>
    let place (w : Nat) (e : Nat × Nat) : Nat × Nat := (((cw w).map Prod.snd).getD e.1 0, e.2)
    let fixes := f0.map (place 0) ++ f1.map (place 1)
    let fixed := bs.map (fun b => fixes.foldl (fun v e => if e.1 = b.2 then v ^^^ BitVec.ofNat 8 e.2 else v) b.1)
    let ok := leNat ((fixed.drop 264).take 4) == crc32c (fixed.take 264)
    if ok then some (fixed, fixes.map Prod.fst) else none
  | _, _ => none

/-- Remainder of data symbols by the generator with roots α^0 … α^9: the ten parity symbols. -/
def rsParity (data : List Nat) : List Nat :=
  let gen := (List.range 10).foldl (fun g i =>
    (List.range (g.length + 1)).map (fun j =>
      (if j = 0 then 0 else g.getD (j - 1) 0) ^^^ gfMul (gfA i) (g.getD j 0))) [1]
  -- gen is low degree first, monic of degree 10
  data.foldl (fun r d =>
    let fb := d ^^^ r.getD 0 0
    (List.range 10).map (fun j => (r.getD (j + 1) 0) ^^^ gfMul fb (gen.getD (9 - j) 0)))
    (List.replicate 10 0)

/-- The 288 bytes of a flit: header, payload, CRC and parity (R270, R271). -/
def flitEncode (hdr : Nat) (payload : List Byte) : List Byte :=
  let body := natLe 8 hdr ++ (payload ++ List.replicate (256 - payload.length) 0#8).take 256
  let b268 := body ++ natLe 4 (crc32c body)
  let data (w : Nat) : List Nat :=
    ((List.range 268).filter (fun i => flitCw i == w)).map (fun i => (b268.getD i 0).toNat)
  let p0 := rsParity (data 0)
  let p1 := rsParity (data 1)
  let tail := (List.range 20).map (fun k =>
    let i := 268 + k
    let w := flitCw i
    let j := ((List.range k).filter (fun q => flitCw (268 + q) == w)).length
    BitVec.ofNat 8 ((if w = 0 then p0 else p1).getD j 0))
  b268 ++ tail

end Sys2Proof.Machine
end

