-- ==== Sys2Proof/Machine/PortOps.lean ====
section
/-!
DEFINITION. Flits, routing, credits and the sender's side of a link (R270 to R286), and the flits of a
message (R301) and of a knell notice (R342).
-/
namespace Sys2Proof.Machine

/-! ## Header fields (Table 11.3) -/

def setFld (w hi lo v : Nat) : Nat :=
  w - place (fld w hi lo) lo + place (v % 2 ^ (hi + 1 - lo)) lo

def hdrType (h : Nat) : Nat := fld h 63 61
def hdrVc (h : Nat) : Nat := fld h 60 59
def hdrDl (h : Nat) : Nat := fld h 58 58
def hdrLast (h : Nat) : Bool := bitAt h 57
def hdrPoison (h : Nat) : Bool := bitAt h 56
def hdrPlan (h : Nat) : Bool := bitAt h 55
def hdrSeq (h : Nat) : Nat := fld h 54 43
def hdrAck (h : Nat) : Nat := fld h 42 31
def hdrDst (h : Nat) : Nat × Nat × Nat := (fld h 30 27, fld h 26 22, fld h 21 16)
def hdrLen (h : Nat) : Nat := fld h 15 8 + 1
/-- Credit pool CPOOL = 2 × VC + DL of a DATA flit (R276). -/
def hdrPool (h : Nat) : Nat := 2 * hdrVc h + hdrDl h

/-- A DATA header before a port fills in the link fields. -/
def mkHdr (vc : Nat) (last poison : Bool) (dst : Nat × Nat × Nat) (len : Nat) : Nat :=
  place 1 61 + place vc 59 + place (b2n last) 57 + place (b2n poison) 56 +
  place (dst.1 % 16) 27 + place (dst.2.1 % 32) 22 + place (dst.2.2 % 64) 16 + place (len - 1) 8

/-! ## Routing (R282, R283) -/

structure Torus where
  own : Nat × Nat × Nat
  size : Nat × Nat × Nat
  deriving DecidableEq, Repr

/-- The routing word of Table 11.6. -/
def torusOf (w : Nat) : Torus :=
  ⟨(fld w 7 0, fld w 15 8, fld w 23 16), (fld w 31 24, fld w 39 32, fld w 47 40)⟩

def State.torus (s : State) : Option Torus := s.pol.routing.map torusOf

/-- Direction in one ring: none when there, else true for + (ties go +). -/
def ringDir (own dst size : Nat) : Option Bool :=
  if own = dst then none
  else
    let f := (dst + size - own % size) % size
    some (decide (f ≤ size - f))

inductive Route where
  | deliver | via (p : Port) | outside
  deriving DecidableEq, Repr

/-- Dimension-order route of a destination: x, then y, then z (R282). -/
def Torus.route (t : Torus) (d : Nat × Nat × Nat) : Route :=
  if t.size.1 ≤ d.1 || t.size.2.1 ≤ d.2.1 || t.size.2.2 ≤ d.2.2 then .outside
  else match ringDir t.own.1 d.1 t.size.1 with
    | some b => .via (if b then .pxp else .pxn)
    | none => match ringDir t.own.2.1 d.2.1 t.size.2.1 with
      | some b => .via (if b then .pyp else .pyn)
      | none => match ringDir t.own.2.2 d.2.2 t.size.2.2 with
        | some b => .via (if b then .pzp else .pzn)
        | none => .deliver

def portDim : Port → Nat
  | .pxp | .pxn => 0 | .pyp | .pyn => 1 | .pzp | .pzn => 2 | .pt => 3

def portPlus : Port → Bool
  | .pxp | .pyp | .pzp => true | _ => false

def Torus.ownIn (t : Torus) (k : Nat) : Nat := if k = 0 then t.own.1 else if k = 1 then t.own.2.1 else t.own.2.2
def Torus.sizeIn (t : Torus) (k : Nat) : Nat := if k = 0 then t.size.1 else if k = 1 then t.size.2.1 else t.size.2.2

/-- Dateline class on leaving by `p` (R283): class 0 on turning into the dimension, 1 from the wraparound on. -/
def Torus.dlOut (t : Torus) (p : Port) (arrived : Option Port) (dl : Nat) : Nat :=
  let keep := if arrived.any (fun a => portDim a == portDim p) then dl else 0
  let x := t.ownIn (portDim p)
  let wrap := if portPlus p then x + 1 == t.sizeIn (portDim p) else x == 0
  if wrap then 1 else keep

/-- Coordinate of the neighbour on a torus port. -/
def Torus.neighbour (t : Torus) (p : Port) : Nat × Nat × Nat :=
  let n := t.sizeIn (portDim p)
  let x := t.ownIn (portDim p)
  let y := if portPlus p then (x + 1) % n else (x + n - 1) % n
  if portDim p = 0 then (y, t.own.2) else if portDim p = 1 then (t.own.1, y, t.own.2.2) else (t.own.1, t.own.2.1, y)

/-! ## Sending on a link -/

def PortS.trained (x : PortS) : Bool := match x.st with | .full | .degraded _ => true | _ => false

/-- Has the pool a credit: a reserved one or a shared one (R276). -/
def PortS.hasCredit (x : PortS) (pool : Nat) : Bool := x.credits.getD pool 0 != 0 || x.shared != 0
def PortS.spend (x : PortS) (pool : Nat) : PortS :=
  if x.credits.getD pool 0 ≠ 0 then { x with credits := x.credits.set pool (x.credits.getD pool 0 - 1) }
  else { x with shared := x.shared - 1 }

/-- Reserve of a pool (Table 11.5). -/
def poolReserve (p : Port) (pool : Nat) : Nat := (portInit (Port.idx p)).credits.getD pool 0
/-- Returned credits refill the reserve first; the rest are shared (R276). -/
def PortS.refill (x : PortS) (p : Port) (pool n : Nat) : PortS :=
  let have_ := x.credits.getD pool 0
  let toRes := min n (poolReserve p pool - have_)
  { x with credits := x.credits.set pool (have_ + toRes), shared := x.shared + (n - toRes) }

/-- CPOOL and CCNT of the next flit: the lowest pool with credits to return. -/
def PortS.credit (x : PortS) : Nat × Nat × PortS :=
  match (List.range 8).find? (fun i => x.owed.getD i 0 != 0) with
  | some i =>
    let n := min 31 (x.owed.getD i 0)
    (i, n, { x with owed := x.owed.set i (x.owed.getD i 0 - n) })
  | none => (0, 0, x)

/-- Put a flit on the wire: padding, CRC and parity are formed for each hop and each resend (R270, R271, R286). -/
def State.putFlit (s : State) (p : Port) (f : Flit) : State := s.emit (.flit p (flitEncode f.1 f.2))

/-- Header of an IDLE flit (TYPE 0): ACK, beat bits, credits (R239, R272). -/
def idleHdr (ack beat pool n : Nat) : Nat := place ack 31 + place (beat % 65536) 15 + place pool 5 + n
/-- Header of a NAK flit (TYPE 2): ACK and credits (R272, R278). -/
def nakHdr (ack pool n : Nat) : Nat := place 2 61 + place ack 31 + place pool 5 + n

/-- Send an IDLE flit: beat bits, ACK and credits (R239, R273). -/
def State.sendIdle (s : State) (p : Port) : State :=
  let x := s.port p
  let (cp, cn, x) := x.credit
  (s.setPort p { x with sinceIdle := 0 }).putFlit p (idleHdr x.rxSeq s.beatNo cp cn, [])

/-- The IDLE flit that 4,096 DATA flits call for goes before any other flit (R273). -/
def State.forceIdle (s : State) (p : Port) : State := if (s.port p).sinceIdle = 4096 then s.sendIdle p else s

/-- Round-robin place of a source: the seven ports, then local injection (R277). -/
def Queued.turn (q : Queued) : Nat := q.src.elim 7 Port.idx

/-- Waiting flits that may go, with their places: each holds a credit and no earlier flit of its source and pool waits
(R275, R276). -/
def PortS.ready (x : PortS) : List (Nat × Queued) :=
  (x.waitq.mapIdx (fun i q => (i, q))).filter (fun e =>
    x.hasCredit (hdrPool e.2.flit.1) &&
    (x.waitq.take e.1).all (fun g => g.src != e.2.src || hdrPool g.flit.1 != hdrPool e.2.flit.1))

/-- The flit that takes the slot (R277): CONTROL first, then REDUCTION and BULK in turn; the sources of one virtual channel
round robin. -/
def PortS.pick (x : PortS) : Option (Nat × Queued) :=
  let cs := x.ready
  let has (v : Nat) : Bool := cs.any (fun e => hdrVc e.2.flit.1 == v)
  let vc := if has 0 then 0 else if has 1 && has 2 then 3 - x.alt else if has 1 then 1 else if has 2 then 2 else 3
  let dist (e : Nat × Queued) : Nat := (e.2.turn + 7 - x.turns.getD vc 7) % 8
  (cs.filter (fun e => hdrVc e.2.flit.1 == vc)).foldl (fun b e =>
    match b with
    | none => some e
    | some a => if dist e < dist a then some e else some a) none

/-- A buffer of a receiver's pool is free: its credit goes back (R276). -/
def State.freeBuf (s : State) (src : Option Port) (pool : Nat) : State :=
  match src with
  | none => s
  | some q => s.updPort q (fun x => { x with owed := x.owed.set pool (x.owed.getD pool 0 + 1) })


/-- Put waiting flits on the wire while credits and the retry buffer allow (R276 to R278). -/
def State.pump : Nat → State → Port → State
  | 0, s, _ => s
  | n + 1, s, p =>
    let x := s.port p
    if !x.trained || x.train.isSome || 1024 ≤ x.retry.length then s
    else match x.pick with
      | none => s
      | some (i, q) =>
        let s := s.forceIdle p
        let x := s.port p
        let (cp, cn, x) := (x.spend (hdrPool q.flit.1)).credit
        let h := setFld (setFld (setFld (setFld q.flit.1 54 43 x.txSeq) 42 31 x.rxSeq) 7 5 cp) 4 0 cn
        let g : Flit := (h, q.flit.2)
        let vc := hdrVc h
        let x := { x with
          waitq := x.waitq.eraseIdx i, retry := x.retry ++ [g], txSeq := (x.txSeq + 1) % 4096,
          turns := x.turns.set vc q.turn, alt := if vc = 1 || vc = 2 then vc else x.alt,
          sinceIdle := x.sinceIdle + 1, ackAt := if x.retry.isEmpty then s.now else x.ackAt }
        State.pump n ((((s.setPort p x).freeBuf q.src q.pool).putFlit p g).count 1 (16 * Port.idx p + 1) 1) p

/-- A discarded DATA flit that was the last of a BULK or REDUCTION message is absorbed (R344). -/
def State.absorb (s : State) (h : Nat) : State :=
  if hdrLast h && (hdrVc h == 1 || hdrVc h == 2) then
    { s with ep := { s.ep with absorbed := s.ep.absorbed + 1 } }
  else s

/-- Discard for routing, logged once per beat per port (R282). -/
def State.unrouted (s : State) (p : Port) (h : Nat) : State :=
  (s.absorb h).logOnce 2 (Port.idx p) 0x57 0 0 (Port.idx p)

/-- Queue a flit for a port and send what may go; a port that is not trained discards it (R282). -/
def State.sendFrom (s : State) (p : Port) (src : Option Port) (pool : Nat) (f : Flit) : State :=
  let x := s.port p
  let no := s.rt.injected
  let s := if src.isNone then { s with rt := { s.rt with injected := no + 1 } } else s
  if x.trained then State.pump (x.waitq.length + 1) (s.setPort p { x with waitq := x.waitq ++ [⟨src, pool, f, no⟩] }) p
  else (s.unrouted p f.1).freeBuf src pool

/-- A flit of the device's own to the neighbour on a port; over the wraparound link it takes DL 1 (R283). -/
def State.sendFlit (s : State) (p : Port) (f : Flit) : State :=
  let dl := match s.torus with
    | some t => if p = .pt then 0 else t.dlOut p none 0
    | none => 0
  s.sendFrom p none 0 (setFld f.1 58 58 dl, f.2)

/-- Send a flit from this router toward a torus coordinate; none of it is delivered here. -/
def State.routeFlit (s : State) (arrived : Option Port) (f : Flit) : State :=
  match s.torus with
  | none => s.unrouted .pxp f.1
  | some t => match t.route (hdrDst f.1) with
    | .via p => s.sendFrom p arrived (hdrPool f.1) (setFld f.1 58 58 (t.dlOut p arrived (hdrDl f.1)), f.2)
    | _ => s.unrouted .pxp f.1

/-! ## Messages and notices as flits -/

/-- The 32-byte message descriptor (Table 12.6). -/
def descBytes (d : MsgDesc) (nbytes : Nat) : List Byte :=
  bytes64 [d.addr % 2 ^ 64,
    place nbytes 32 + place d.space 28 + place d.rcore.val 22 + place d.score.val 16 + d.src % 65536,
    place (b2n d.sigEn) 23 + place (b2n d.side) 22 + place d.target.val 16 + place (d.count % 256) 8 + d.pair.val,
    d.epoch % 2 ^ 64]

/-- Payload bytes, each with its poison, in pieces of 256 as flits; the last carries LAST, and POISON marks the one flit whose
payload holds poison (R289). -/
def cutFlits (vc : Nat) (dst : Nat × Nat × Nat) : List (List (Byte × Bool)) → List Flit
  | [] => []
  | [x] => [(mkHdr vc true (x.any Prod.snd) dst x.length, x.map Prod.fst)]
  | x :: t => (mkHdr vc false (x.any Prod.snd) dst x.length, x.map Prod.fst) :: cutFlits vc dst t

/-- The flits of a message: its descriptor, then its data (R301). -/
def msgFlits (vc : Nat) (dst : Nat × Nat × Nat) (d : MsgDesc) (cs : List Cell) : List Flit :=
  let bs := (descBytes d cs.length).map (fun b => (b, false)) ++ cs.map (fun c => (c.2.1, c.2.2))
  cutFlits vc dst (chunksOf 256 (bs.length / 256 + 1) bs)

/-- The flit of a message that carries its data byte i (R301). -/
def flitOf (i : Nat) : Nat := (32 + i) / 256
/-- The flits of a message that POISON marks. -/
def poisonFlits (cs : List Cell) : List Nat :=
  ((cs.mapIdx (fun i c => (flitOf i, c.2.2))).filter Prod.snd).foldl (fun l e => NatSet.insert l e.1) []

/-- Torus coordinate of a member (Table 12.2). -/
def CarRec.coord (r : CarRec) (m : Nat) : Nat × Nat × Nat :=
  let w := r.members.getD m 0
  (fld w 7 0, fld w 15 8, fld w 23 16)
/-- The member's TWIN flag. -/
def CarRec.twinOf (r : CarRec) (m : Nat) : Bool := bitAt (r.members.getD m 0) 31

/-- The knell notice payload (Table 14.5). -/
def knellBytes (k : KnellMsg) : List Byte :=
  bytes64 [k.epoch % 2 ^ 64, k.cid % 2 ^ 32,
    place (k.srcIdx % 256) 56 + place (k.srcKind % 256) 48 + place (k.fault % 256) 40 +
      place (k.cause % 256) 32 + place (k.origin % 65536) 16, k.obeat % 2 ^ 48]

/-- Send a knell notice on the trained torus ports given, and on PT when the device is paired (R342). -/
def State.floodKnell (s : State) (k : KnellMsg) (ps : List Port) : State :=
  match s.torus with
  | none => s
  | some t =>
    let send (s : State) (p : Port) : State :=
      if (s.port p).trained then
        let dst := if p = .pt then t.own else t.neighbour p
        s.sendFlit p (mkHdr 0 true false dst 32, knellBytes k)
      else s
    let ps := ps.filter (fun p => p != .pt || s.twin.st != 0)
    ps.foldl send s

/-- Does the router hold a BULK or REDUCTION flit in a queue or a retry buffer (R337, R344). -/
def State.routerBusy (s : State) : Bool :=
  allPorts.any (fun p =>
    let x := s.port p
    (x.waitq.map Queued.flit ++ x.retry).any (fun f => hdrVc f.1 == 1 || hdrVc f.1 == 2))

end Sys2Proof.Machine
end

