-- ==== Sys2Proof/Machine/Knell.lean ====
section
/-!
DEFINITION. The snare (R347), what an epoch releases, and the knell with its actions (R341 to R346), as
shared operations.
-/
namespace Sys2Proof.Machine

/-! ## The snare -/

/-- BUSY (Table 14.8): engine e runs an op; bit 0: the CSQ executes a control op that holds dispatch (log 24). -/
def coreBusy (k : Core) : Nat :=
  maskOf ((List.range 7).filter (fun e => (Table.get none k.engs e).isSome || (e == 0 && k.csq matches .gongWait | .atGong | .bndWait)))

/-- Core record (Table 14.8). -/
def snareCore (k : Core) : List Byte :=
  let f := k.fault.getD (0, 0xFFFF)
  bytes64 [place (f.2 % 65536) 48 + place (f.1 % 256) 40 + place (k.flags % 65536) 16 + k.lastOp % 65536,
    coreBusy k, 0, 0]

/-- Stream context of a running or halted TMV op (Table 8.3). -/
def snareStream (c : Nat) (k : Core) : List Byte :=
  match Table.get none k.engs 6 with
  | none => List.replicate 64 0#8
  | some r =>
    let (ix, par) := runWalk k r
    let h := r.halt
    let st := if h.isSome then 1 else 0
    let g (i : Nat) : Nat := ix.getD i 0
    bytes64 [place (opId r.op.w) 48 + place c 42 + place st 40 + place ((h.map Halt.fault).getD 0) 32 + r.entry,
      place (g 1) 32 + g 0, place (g 3) 32 + g 2, place (g 5) 32 + g 4, place r.tiles 32 + par,
      place ((h.map Halt.granule).getD 0) 32 + (h.map Halt.inflight).getD 0,
      (h.map Halt.faddr).getD 0, (h.map Halt.beat).getD 0]

def portStCode (x : PortS) : Nat := match x.st with | .down => 0 | .degraded _ => 1 | .full => 2 | .disabled => 3

def snarePort (x : PortS) : List Byte :=
  bytes64 [portStCode x + place (x.epochRetries % 256) 8 + place (x.retry.length % 65536) 32, 0, 0, 0]

/-- The 8,192 bytes of a snare (Tables 14.6 to 14.8); STOP_NS and SNARE_NS are free within the bounds of R343 (log 8). -/
def State.snareBytes (s : State) (k : KnellMsg) : List Byte :=
  let cid := s.cid
  let hdr := bytes64 [k.epoch % 2 ^ 64,
    place cid 32 + place (s.selfIdx % 65536) 16 + k.origin % 65536,
    place (k.cause % 256) 56 + place (k.fault % 256) 48 + place (k.srcKind % 256) 40 + place (k.srcIdx % 256) 32 +
      place s.ep.st.code 24 + place (b2n s.ep.poison) 23 + min s.ep.extra 65535,
    s.beatNo, s.phase, s.ep.lce % 2 ^ 64,
    place (Config.freeNat s.free % 1001) 32 + Config.freeNat (s.free + 1) % 5001, s.ep.orig % 2 ^ 64, s.ep.absorbed % 2 ^ 64,
    0, 0, 0, 0, 0, 0, 0]
  let cs := List.range 64
  hdr ++ cs.flatMap (fun c => snareCore (s.core c)) ++
    cs.flatMap (fun c => snareStream c (s.core c)) ++
    allPorts.flatMap (fun p => snarePort (s.port p)) ++ List.replicate 1696 0#8

/-- A further notice for the epoch (Table 14.7): EXTRA of the epoch's snare, the last one written. -/
def State.countExtra (s : State) : State :=
  let n := min 65535 (s.ep.extra + 1)
  let put (b : List Byte) : List Byte := b.take 16 ++ natLe 2 n ++ b.drop 18
  { s with
    ep := { s.ep with extra := n },
    ev := { s.ev with snares := s.ev.snares.map (fun e => if e.1 + 1 = s.ev.snareNo then (e.1, put e.2) else e) } }

/-! ## Releasing what an epoch holds -/

def Page.upd (s : State) (r : Nat) (f : Page → Page) : State :=
  match Table.get none s.kv.recs r with
  | none => s
  | some p => { s with kv := { s.kv with recs := Table.set none s.kv.recs r (some (f p)) } }

def State.page (s : State) (r : Nat) : Option Page := Table.get none s.kv.recs r

/-- Give the units of a kind of job that wait on a page an outcome (R195, R200); `force` picks forced or unforced evictions. -/
def State.settleUnits (s : State) (kind : JobKind) (rec st : Nat) (force : Option Bool) : State :=
  let hit (j : Job) : Bool := j.kind == kind && force.all (fun f => (j.args.getD 0 0 == 1) == f)
  { s with mb := { s.mb with jobs := s.mb.jobs.map (fun j =>
      if hit j then
        { j with units := j.units.map (fun u => if u.1 = rec + 1 && u.2.isNone then (u.1, some st) else u) }
      else j) } }

/-- Complete a tier command whose units all have an outcome (R200). -/
def State.finishTiers (s : State) : State :=
  let ready (j : Job) : Bool :=
    (j.kind == .tierPrefetch || j.kind == .tierEvict) && j.units.all (fun u => u.2.isSome)
  (s.mb.jobs.filter ready).foldl (fun s j => s.replyUnits j.n (j.units.map (fun u => u.2.getD 0)) []) s

/-- The tag pools of Table 8.4: DRAM tags of a core, host tags of the device, and those of them that only the CP takes (R211,
R212); a page takes one host tag for each 4 KiB (R214, R215). -/
def dramTags : Nat := 512
def hostTags : Nat := 2048
def cpTags : Nat := 256
def tagsPerPage : Nat := 262144 / 4096

/-- A copy of a page begins, or waits for CP tags behind the copies before it (R200). -/
def State.startCopy (s : State) (r : Nat) : State := { s with kv := { s.kv with copyq := s.kv.copyq.filter (fun e => e.1 != r) ++ [(r, s.now)] } }

/-- The copies in flight: the first four of those begun, which the 256 CP tags cover (R200, R212, log 119). -/
def State.copying (s : State) : List Nat :=
  ((s.kv.copyq.filter (fun e => (s.page e.1).any (fun p => p.st == 1 || p.st == 3))).take (cpTags / tagsPerPage)).map Prod.fst

/-- A frame that its page gave up: free, or after the TMV write in flight to it (R197). -/
def State.drain (s : State) (r : Nat) (p : Page) : State :=
  if p.inflight = 0 then s else { s with kv := { s.kv with draining := (r, p.frame) :: s.kv.draining } }

/-- A page leaves the device for HOST (Table 7.6). -/
def State.toHost (s : State) (r : Nat) : State :=
  match s.page r with
  | none => s
  | some p => (Page.upd s r (fun p => { p with
      st := 0, frame := 0, dirty := false, evpend := false, forced := false, inflight := 0 })).drain r p

/-- Move a page with EVPEND set toward HOST when its PIN is 0 and no TMV write is in flight (R196). -/
def State.settle (s : State) (r : Nat) : State :=
  match s.page r with
  | none => s
  | some p =>
    if p.st = 2 && p.evpend && p.pin = 0 && p.inflight = 0 then
      if p.dirty then (Page.upd s r (fun p => { p with st := 3, evpend := false, forced := true })).startCopy r
      else ((s.toHost r).settleUnits .tierEvict r stOk none).finishTiers
    else s

/-- Release the pins of R191; a release is no unpin command, and R196 acts on it too. -/
def State.unpinAll (s : State) (rs : List Nat) : State :=
  rs.foldl (fun s r => (Page.upd s r (fun p => { p with pin := p.pin - 1 })).settle r) s

/-- PROV of every sequence to 0 (R184). -/
def State.zeroProv (s : State) : State :=
  { s with kv := { s.kv with lens := s.kv.lens.map (fun e => (e.1, { e.2 with prov := 0 })) } }

/-- The contents of core-store buffers written in the epoch become undefined (R343 step 2, log 55). -/
def undefineRange (k : Core) (free a : Nat) : Nat → Core
  | 0 => k
  | n + 1 => undefineRange { k with store := k.store.write a (Config.freeByte (free + n)) } free (a + 1) n

/-- Written buffers are kept as base × 2^23 + size. -/
def State.undefine (s : State) (c : Nat) : State :=
  (s.core c).written.foldl (fun s w =>
    let n := w % 2 ^ 23
    let s := s.updCore c (fun k => undefineRange k s.free (w / 2 ^ 23) n)
    s.drew n) s

/-- Stop a core: dispatch ends, ops are abandoned (R343 step 1). -/
def stopCore (k : Core) : Core :=
  { k with csq := .idle, queues := [], engs := [], written := [], fault := k.fault }

/-- Nanoseconds that halted streams have waited, added to the halt totals (R307). -/
def State.addHalt (s : State) (ns : Nat) : State :=
  { s with car := { s.car with late := { s.car.late with
      halt := s.car.late.halt + ns, whalt := s.car.late.whalt + ns } } }

/-- What the streams halted now have waited up to now goes into the halt totals (R232, R307). -/
def State.settleHalts (s : State) : State :=
  (List.range 64).foldl (fun s c => match Table.get none (s.core c).engs 6 with
    | some r => match r.halt with
      | some h => (s.addHalt (s.now - h.counted)).updCore c (fun k => { k with
          engs := Table.set none k.engs 6 (some { r with halt := some { h with counted := s.now } }) })
      | none => s
    | none => s) s

/-- Stop the step on every core and discard what it held (R343 steps 1 and 2); halts that it ends are counted (R307). -/
def State.stopStep (s : State) : State :=
  let s := s.settleHalts
  let s := (List.range 64).foldl (fun s c => (s.undefine c).updCore c (fun k =>
    { stopCore k with idleAt := if k.csq == .idle || k.done then k.idleAt else s.now })) s
  { s with
    fab := { s.fab with gong := [], ctrs := [] },
    rt := { s.rt with insts := [], slots := 0, bytes := 0, doneInsts := [], owed := [], ready := [] } }

/-- Complete the STEP_RUN and STEP_COMMIT in progress (R343 step 4); every unit of a STEP_COMMIT gets the status (R349, R350). -/
def State.abortJobs (s : State) (cause : Nat) : State :=
  let hit (j : Job) : Bool := j.kind == .step || j.kind == .stepWait || (j.kind == .commit && s.ep.st != .prepared)
  (s.mb.jobs.filter hit).foldl (fun s j =>
    s.reply j.n stKnell cause (if j.kind = .commit then unitBlock (List.replicate s.memberCount stKnell) else []) 0) s

/-! ## The knell -/

/-- A device's actions on its first knell notice for the current epoch (R343, R337). -/
def State.knellActs (s : State) (k : KnellMsg) : State :=
  let bytes := s.snareBytes k
  let s := (s.drew 2).stopStep
  let prepared := s.ep.st == .prepared
  let s := if prepared then s else s.ep.seqs.foldl (fun s e => s.tellSeq e.1) ((s.zeroProv).unpinAll s.ep.pins)
  let no := s.ev.snareNo
  let sn := s.ev.snares ++ [(no, bytes)]
  let s := { s with ev := { s.ev with snares := sn.drop (sn.length - 4), snareNo := no + 1 } }
  let s := s.logCp 0xD0 (place (k.cause % 256) 8 + k.fault % 256) no
  let s := s.eventChime
  let s := s.abortJobs k.cause
  let again := k.cause == 0x0B && s.ep.mismatch == some k.epoch
  let mis := if again then s.logCp 0x85 0 s.twin.word else s
  { mis with ep := { mis.ep with
      st := if prepared then .prepared else .idle, pins := if prepared then mis.ep.pins else [],
      seqs := if prepared then mis.ep.seqs else [], quiet := false, knell := some (k, mis.now), extra := 0,
      voteDue := none, abortDue := none,
      persist := mis.ep.persist || again, peerDigest := none, quietSent := none,
      selfCheck := mis.ep.selfCheck || k.cause == 0x0B,
      mismatch := if k.cause = 0x0B then some k.epoch else mis.ep.mismatch } }

/-- Raise the knell for the current epoch (R341): in IDLE, or with the epoch's knell in force, nothing. A
device that is not a member acts on its own knell alone (R342). -/
def State.raiseKnell (s : State) (cause fault srcKind srcIdx : Nat) : State :=
  if s.ep.st = .idle || s.ep.knell.isSome then s
  else
    let k : KnellMsg := ⟨s.beatNo, srcIdx, srcKind, fault, cause, s.selfIdx, s.cid, s.ep.next⟩
    let s := if s.car.member then s.floodKnell k allPorts else s
    s.knellActs k

/-- Complete every STEP_ABORT that waits for quiescence (R341). -/
def State.finishAborts (s : State) : State :=
  (s.mb.jobs.filter (fun j => j.kind == .abort)).foldl (fun s j => s.reply j.n stOk 0 [] 0) s

/-- The device is quiescent (R344). -/
def State.setQuiet (s : State) : State :=
  let s := s.finishAborts
  { s with
    ep := { s.ep with quiet := true, knell := none, orig := 0, absorbed := 0, quietSent := none },
    lead := { s.lead with quiets := [] } }

/-- Retire epoch e: it is never run again (R346, R379). -/
def State.retire (s : State) (e : Nat) : State :=
  let s := s.logCp 0xD3 0 e
  let s := s.tellTwin "RETIRED" [e] []
  { s with ep := { s.ep with next := e + 1 } }

/-- Apply a decision to the device's sequences (Table 14.2, R184). -/
def State.applyCommit (s : State) (epoch : Nat) (counts : List (Nat × Nat)) : State :=
  let s := counts.foldl (fun s c =>
    { s with kv := { s.kv with lens := Table.upd Lens.init s.kv.lens c.1 (fun l =>
        { l with committed := l.committed + c.2, prov := 0 }) } }) s
  let s := s.zeroProv.unpinAll s.ep.pins
  let s := { s with ep := { s.ep with
    st := .idle, next := max s.ep.next (epoch + 1), lce := epoch, prep := none, pins := [], seqs := [], ackDue := false } }
  (s.logCp 0xD1 0 epoch).eventChime

def State.applyAbort (s : State) (epoch : Nat) : State :=
  let s := s.zeroProv.unpinAll s.ep.pins
  let s := { s with ep := { s.ep with
    st := .idle, prep := none, pins := [], seqs := [], ackDue := false } }
  (s.logCp 0xD2 0 epoch).eventChime

end Sys2Proof.Machine
end

