-- ==== Sys2Proof/Machine/Memory.lean ====
section
/-!
DEFINITION. The address spaces of R80 with poison (R228, R254), DRAM read outcomes (R253, R259, R260),
region translation (R175, R195), the staging cache (R223, R224), mirroring (R357, R367), semaphore
signals (R54 to R56) and core faults with their actions (R70, R226, R227).
-/
namespace Sys2Proof.Machine

/-! ## Poison-marked memories -/

/-- Write cells into a memory that marks poison by units of `unit` bytes: a poisoned cell poisons its unit; a
unit covered whole by unpoisoned cells is clean; a partial write leaves a poisoned unit poisoned (R228, R254). -/
def pwrite (unit : Nat) (m : Mem) (p : NatSet) (cs : List Cell) : Mem × NatSet :=
  let m' := cs.foldl (fun m c => m.write c.1 c.2.1) m
  let units := cs.foldl (fun l c => NatSet.insert l (c.1 / unit)) []
  let p' := units.foldl (fun p u =>
    let mine := cs.filter (fun c => c.1 / unit == u)
    if mine.any (fun c => c.2.2) then NatSet.insert p u
    else if (mine.foldl (fun l c => NatSet.insert l c.1) []).length = unit then NatSet.remove p u
    else p) p
  (m', p')

def cellsOf (a : Nat) (poison : Bool) (bs : List Byte) : List Cell :=
  (List.range bs.length).map (fun i => (a + i, bs.getD i 0, poison))

/-! ## DRAM -/

/-- Channel, stack, bank and row of a DRAM byte address (R251). -/
structure DramLoc where
  stack : Nat
  chan : Nat
  bank : Nat
  row : Nat
  deriving DecidableEq, Repr

def dramLoc (addr : Nat) : DramLoc :=
  let g := addr / 1024
  let gc := g % 768
  let lg := g / 768
  ⟨gc % 24, gc / 24, lg % 32, lg / 32 / 2⟩

def DramLoc.rowKey (l : DramLoc) : Nat := ((l.stack * 32 + l.chan) * 32 + l.bank) * 4096 + l.row
def DramLoc.bankKey (l : DramLoc) : Nat := (l.stack * 32 + l.chan) * 32 + l.bank
def DramLoc.chanKey (l : DramLoc) : Nat := l.stack * 32 + l.chan

/-- The two frames that hold a row's two granules (R260). -/
def DramLoc.frames (l : DramLoc) : List Nat :=
  [0, 1].map (fun half => ((l.bank + 32 * (2 * l.row + half)) * 768 + l.chan * 24 + l.stack) / 256)

/-- Outcome of a burst read (Table 10.2): CE carries the symbol put right. -/
inductive ReadOut where
  | clean | ce (pos val : Nat) | poison | ue
  deriving DecidableEq, Repr

/-- Pin group that carries a codeword symbol (R252). -/
def symGroup (sym : Nat) : Nat := if sym < 16 then 8 else (143 - sym) % 8

/-- The pin group that a channel in erasure mode erases (R255). -/
def State.erased (s : State) (burst : Nat) : Option Nat :=
  match Table.get 0 s.dram.degraded (dramLoc (burst * 128)).chanKey with
  | 0 => none
  | g + 1 => some g

/-- The symbol errors of a burst that the erasures do not take away (R255). -/
def State.liveErrs (s : State) (burst : Nat) : List (Nat × Nat) :=
  (Table.get [] s.dram.errs burst).filter (fun e => s.erased burst != some (symGroup e.1))

/-- What a read of a burst gives. A poisoned burst with an error is UE (R254); in erasure mode an error beyond the erased
symbols is not detected (R255). -/
def State.dramOut (s : State) (burst : Nat) : ReadOut :=
  let errs := s.liveErrs burst
  if errs.isEmpty then (if NatSet.has s.dram.poison burst then .poison else .clean)
  else if NatSet.has s.dram.poison burst then .ue
  else if (s.erased burst).isSome then .clean
  else
    let syn := syndromes 16 errs
    if syn.all (· == 0) then .clean
    else match singleError 144 syn with
      | some (p, v) => .ce p v
      | none => .ue

/-- A byte as the decoder delivers it: erased symbols are rebuilt; in erasure mode beside a further error it is free (R255,
log 8); errors beyond the code stand in the data. -/
def State.dramByte (s : State) (a : Nat) : Byte :=
  let b := a / 128
  let v := s.dram.bytes.read a
  let errs := s.liveErrs b
  if errs.isEmpty then v
  else if (s.erased b).isSome then Config.freeByte (s.free + a)
  else
    let flip := errs.foldl (fun v e => if e.1 = 143 - a % 128 then v ^^^ BitVec.ofNat 8 e.2 else v) v
    match s.dramOut b with
    | .ce p x => if p = 143 - a % 128 then flip ^^^ BitVec.ofNat 8 x else flip
    | _ => flip

/-- Is the spare map full (Table 19.6): 16,384 entries. -/
def State.spareMapFull (s : State) : Bool := decide (16384 ≤ s.img.spareMap.length + s.img.laneMap.length)

/-- Retire a frame (R260, R461); `key` is the row for which it goes. -/
def State.retireFrame (s : State) (key f : Nat) : State :=
  let s := { s with dram := { s.dram with retiredBy := Table.set 0 s.dram.retiredBy f (key + 1) } }
  if 65536 ≤ s.img.retired.length then
    let s := s.logCp 0xA3 0 1
    { s with img := { s.img with retiredNow := NatSet.insert s.img.retiredNow f } }
  else { s with img := { s.img with retired := NatSet.insert s.img.retired f } }

/-- Begin to spare a row, or retire its frames when the bank has no free spare row (R259, R260). -/
def State.spareRow (s : State) (l : DramLoc) : State :=
  if NatSet.has s.dram.copying l.rowKey then s
  else if 16 ≤ Table.get 0 s.dram.spareUsed l.bankKey || s.spareMapFull then
    let s := if s.spareMapFull then s.logCp 0xA3 0 0 else s
    let s := s.logEvent 3 l.stack 0x44 (l.chan * 32 + l.bank) l.row
    l.frames.foldl (fun s f => s.retireFrame l.rowKey f) s
  else { s with dram := { s.dram with copying := NatSet.insert s.dram.copying l.rowKey } }

/-- 24 hours in ns (R259). -/
def dayNs : Nat := 24 * 3600 * 1000000000

/-- What a completed burst read counts, logs and queues (R253, R257, R259, R267). -/
def State.dramNote (s : State) (burst : Nat) : State :=
  let l := dramLoc (burst * 128)
  match s.dramOut burst with
  | .ce _ _ =>
    let s := s.count 2 (8 * l.stack + 1) 1
    let s := { s with dram := { s.dram with ceCount := Table.upd 0 s.dram.ceCount l.chanKey (· + 1) } }
    let s := s.logOnce 3 l.stack 0x40 (l.chan * 32 + l.bank) l.row l.rowKey
    let beats := Table.get [] s.dram.ceBeats l.rowKey
    let times := Table.get [] s.dram.ceAt l.rowKey
    let keep := (beats.zip times).filter (fun e => decide (s.now < e.2 + dayNs) && e.1 != s.beatNo)
    let both : List (Nat × Nat) := keep ++ [(s.beatNo, s.now)]
    let s := { s with dram := { s.dram with
      writeback := NatSet.insert s.dram.writeback burst,
      ceBeats := Table.set [] s.dram.ceBeats l.rowKey (both.map Prod.fst),
      ceAt := Table.set [] s.dram.ceAt l.rowKey (both.map Prod.snd) } }
    if s.policy 0x0053 ≤ both.length then s.spareRow l else s
  | .ue =>
    let s := s.count 2 (8 * l.stack + 2) 1
    let s := (s.logEvent 3 l.stack 0x41 (l.chan * 32 + l.bank) (burst * 128)).spareRow l
    { s with dram := { s.dram with rewrite := NatSet.insert s.dram.rewrite burst } }
  | _ =>
    if (s.erased burst).isSome then { s with dram := { s.dram with rebuilt := Table.upd 0 s.dram.rebuilt l.chanKey (· + 1) } } else s

/-- What the reads of a range do (R253, R255, R259); a burst without standing errors, in a channel that rebuilds nothing, does
nothing. -/
def State.dramNoteRange (s : State) (a n : Nat) : State :=
  (((List.range ((a + n + 127) / 128 - a / 128)).map (a / 128 + ·)).filter (fun b =>
    !(Table.get [] s.dram.errs b).isEmpty || (s.erased b).isSome)).foldl State.dramNote s

/-! ## The twin side of a DRAM write -/

/-- The pair becomes STALE (R352, R353, R370); the mirror pauses. A write that cannot be delivered clears the source's resync
record (R368). -/
def State.stale (s : State) (cause : Nat) (valid : Bool) : State :=
  if s.twin.st = 0 then s
  else
    let s := { s with twin := { s.twin with
      st := 2, cause := cause, valid := valid, resync := none, mirror := [], paused := false } }
    let s := s.logCp 0x81 cause s.twin.word
    let s := if cause = 3 then { s with img := { s.img with journal := s.img.journal.filter (fun r => match r with
        | .resync _ own .. => !own
        | _ => true) } }
      else s
    (s.mb.jobs.filter (fun j => j.kind == .resync)).foldl (fun s j =>
      s.reply j.n (if cause = 8 then stRejected else stNotInState) 0 (bytes64 [s.twin.word]) 0) s

/-- Runs of contiguous addresses, each at most 65,536 bytes (R301). -/
def runsOf : List Cell → List (List Cell)
  | [] => []
  | c :: t => match runsOf t with
    | (d :: r) :: rs => if d.1 = c.1 + 1 && (d :: r).length < 65536 then (c :: d :: r) :: rs else [c] :: (d :: r) :: rs
    | rs => [c] :: rs

/-- Does the resync in progress mirror a write to this address (R367). -/
def State.resyncMirrors (s : State) (a : Nat) : Bool :=
  match s.twin.resync with
  | some (u, _) => s.twin.st == 3 && s.twin.valid && decide (a / 2 ^ 30 < u)
  | none => false

/-- Is the address in the spill area of the plan (R317); its writes are not mirrored (Table 15.3). -/
def State.inSpill (s : State) (a : Nat) : Bool :=
  match s.car.rec? with
  | none => false
  | some r =>
    let p (i : Nat) : Nat := leNat ((r.plan.drop (8 * i)).take 8)
    decide (p 1 ≤ a) && decide (a < p 1 + p 2)

/-- Mirror DRAM writes over PT as MIRROR messages with SPACE 3 (R357). -/
def State.mirror (s : State) (cs : List Cell) : State :=
  let due := cs.filter (fun c => (s.twin.mirroring || s.resyncMirrors c.1) && !s.inSpill c.1)
  if due.isEmpty then s
  else if s.twin.paused || !(s.port .pt).trained then
    (s.stale 3 true)
  else
    let own := match s.torus with | some t => t.own | none => (0, 0, 0)
    (runsOf due).foldl (fun s run =>
      let a := (run.headD (0, 0, false)).1
      let d : MsgDesc := ⟨a, 3, 0, 0, s.selfIdx, false, false, 0, 0, 0, s.ep.next⟩
      let fs := msgFlits 3 own d run
      let s := fs.foldl (fun s f => s.sendFlit .pt f) s
      { s with twin := { s.twin with mirror := s.twin.mirror ++ [(a, s.now)] } }) s

/-- Write DRAM: poison by bursts, fetch lines invalidated (R224), mirrored when due (R357). Standing symbol errors
of a burst go with a write that covers it whole or that reads it as CE first. -/
def State.dramWrite (s : State) (cs : List Cell) : State :=
  let bursts := cs.foldl (fun l c => NatSet.insert l (c.1 / 128)) []
  let full (b : Nat) : Bool :=
    ((cs.filter (fun c => c.1 / 128 == b)).foldl (fun l c => NatSet.insert l c.1) []).length == 128
  let errs := bursts.foldl (fun e b =>
    match s.dramOut b with
    | .ce _ _ => Table.del e b
    | _ => if full b then Table.del e b else e) s.dram.errs
  let (m, p) := pwrite 128 s.dram.bytes s.dram.poison cs
  let s := { s with
    dram := { s.dram with bytes := m, poison := p, errs := errs },
    fab := { s.fab with fetch := s.fab.fetch.filter (fun l => cs.all (fun c => c.1 / 1024 != l)) } }
  s.mirror cs

/-! ## Region space -/

/-- Where a region byte lives: in DRAM, at HOME, behind a promotion, or nowhere (R175, Table 7.6). -/
inductive Place where
  | dram (a rec : Nat) | host (a rec : Nat) | wait (rec : Nat) | fault (code : Nat)
  deriving DecidableEq, Repr

def hdrSize (h : List Nat) : Nat := fld (h.getD 4 0) 40 0
def hdrDemand (h : List Nat) : Bool := bitAt (h.getD 0 0) 15

/-- The page record of a region page; none when unmapped. -/
def State.pageOf (s : State) (seq page : Nat) : Option Nat :=
  match Table.get 0 s.kv.map (mapKey seq page) with
  | 0 => none
  | r + 1 => some r

def State.locate (s : State) (addr : Nat) (write : Bool) : Place :=
  let seq := addr / 2 ^ 40
  let off := addr % 2 ^ 40
  let h := Table.get [] s.kv.hdrs seq
  if 4095 < seq || !(Table.get Lens.init s.kv.lens seq).isOpen || hdrSize h ≤ off then .fault 0x12
  else match s.pageOf seq (off / 262144) with
    | none => .fault 0x12
    | some r => match s.page r with
      | none => .fault 0x12
      | some p =>
        let d := p.frame * 262144 + off % 262144
        let ho := p.home * 4096 + off % 262144
        if write then
          if 1 < p.share then .fault 0x11
          else if p.st = 0 then .fault 0x10
          else if p.st = 1 then .wait r
          else .dram d r
        else if p.st = 0 then (if hdrDemand h then .fault 0x10 else .host ho r)
        else if p.st = 1 then (if hdrDemand h then .wait r else .host ho r)
        else .dram d r

/-- A pin or a TMV write meets an EVICTING page: the copy is abandoned (Table 7.6). -/
def State.abandonEvict (s : State) (r : Nat) : State :=
  match s.page r with
  | none => s
  | some p =>
    if p.st = 3 then
      let s := Page.upd s r (fun p => { p with st := 2, evpend := p.forced, forced := false, prefetch := false })
      ((s.settleUnits .tierEvict r stNotInState (some false)).settleUnits .tierPrefetch r stOk none).finishTiers
    else s

/-- A TMV access stamps the page; a write sets DIRTY and counts in flight (Table 7.6, R196, R198). -/
def State.touchPage (s : State) (r : Nat) (write : Bool) : State :=
  let s := if write then s.abandonEvict r else s
  Page.upd s r (fun p => { p with
    stamp := s.beatStamp, dirty := p.dirty || write, inflight := if write then max p.inflight 1 else p.inflight })

/-! ## Reading and writing a space -/

/-- A byte read: value, poison, fault code (0: none), must wait. -/
structure RByte where
  val : Byte
  poison : Bool
  fault : Nat
  wait : Bool
  page : Option Nat
  deriving DecidableEq, Repr

def popcount (x : Nat) : Nat := ((List.range 64).filter (fun i => x.testBit i)).length

/-- A core-store byte: a double-bit error in its lane is STORE_UE; a single one is corrected (R48). -/
def storeByte (k : Core) (a : Nat) : RByte :=
  ⟨k.store.read a, NatSet.has k.poison (a / 64),
   if 2 ≤ popcount (Table.get 0 k.flips (a / 8)) then 0x04 else 0, false, none⟩

def State.dramRByte (s : State) (a : Nat) (pg : Option Nat) : RByte :=
  match s.dramOut (a / 128) with
  | .ue => ⟨0, false, 0x20, false, pg⟩
  | .poison => ⟨s.dramByte a, true, 0, false, pg⟩
  | _ => ⟨s.dramByte a, false, 0, false, pg⟩

def State.hostRByte (s : State) (a : Nat) (pg : Option Nat) : RByte :=
  if s.hostBad a 1 then ⟨0, false, 0x13, false, pg⟩
  else ⟨s.host.bytes.read a, NatSet.has s.host.poison (a / 64), 0, false, pg⟩

/-- Read one byte of a space (R80). -/
def State.spaceByte (s : State) (c space peer a : Nat) : RByte :=
  match space with
  | 0 => storeByte (s.core c) a
  | 1 => storeByte (s.core peer) a
  | 2 => ⟨s.fab.staging.read a, NatSet.has s.fab.stagingPoison (a / 64), 0, false, none⟩
  | 3 => s.dramRByte a none
  | 4 => match s.locate a false with
    | .dram d r => s.dramRByte d (some r)
    | .host h r => s.hostRByte h (some r)
    | .wait r => ⟨0, false, 0, true, some r⟩
    | .fault f => ⟨0, false, f, false, none⟩
  | _ => s.hostRByte a none

/-- Fault code of a write to one byte, or a wait. -/
def State.writeCheck (s : State) (space a : Nat) : Nat × Bool :=
  match space with
  | 4 => match s.locate a true with
    | .fault f => (f, false)
    | .wait _ => (0, true)
    | _ => (0, false)
  | 5 => (if s.hostBad a 1 then 0x13 else 0, false)
  | _ => (0, false)

/-- Write a core's store; a write clears the flips of its lanes and marks poison (R48, R228). A write of part of a lane makes its
check bits anew over the whole lane, whose standing errors go (log 102). -/
def State.storeWrite (s : State) (c : Nat) (cs : List Cell) : State :=
  s.updCore c (fun k =>
    let (m, p) := pwrite 64 k.store k.poison cs
    { k with store := m, poison := p, flips := cs.foldl (fun f x => Table.del f (x.1 / 8)) k.flips })

/-- Bytes to be written as they land now: bits outside a mask keep what stands there (R92). -/
def State.landing (s : State) (c space peer : Nat) (cs : List WByte) : List Cell :=
  cs.map (fun x => (x.addr,
    if x.mask = 0xFF#8 then x.val else ((s.spaceByte c space peer x.addr).val &&& ~~~x.mask) ||| (x.val &&& x.mask), x.poison))

/-- Does any cell carry poison. -/
def anyPoison (cs : List Cell) : Bool := cs.any (fun c => c.2.2)

/-- A member that creates or receives poison sets the step's poison flag (R229). -/
def State.setPoison (s : State) : State := { s with ep := { s.ep with poison := true } }

/-- Write cells into a space; cells of a region whose page refuses them are dropped (R202, R227). -/
def State.spaceWrite (s : State) (c space peer : Nat) (cs : List Cell) : State :=
  match space with
  | 0 => s.storeWrite c cs
  | 1 => s.storeWrite peer cs
  | 2 =>
    let (m, p) := pwrite 64 s.fab.staging s.fab.stagingPoison cs
    { s with fab := { s.fab with staging := m, stagingPoison := p } }
  | 3 => s.dramWrite cs
  | 4 =>
    let at_ := cs.filterMap (fun x => match s.locate x.1 true with
      | .dram d r => some (r, (d, x.2.1, x.2.2))
      | _ => none)
    let pages := at_.foldl (fun l x => NatSet.insert l x.1) []
    (pages.foldl (fun s r => s.touchPage r true) s).dramWrite (at_.map Prod.snd)
  | _ =>
    let ok := cs.filter (fun x => !s.hostBad x.1 1)
    let (m, p) := pwrite 64 s.host.bytes s.host.poison ok
    { s with host := { s.host with bytes := m, poison := p } }

/-! ## Buffers -/

/-- A buffer table entry (Table 3.6). -/
structure Buf where
  base : Nat
  size : Nat
  wrap : Bool
  space : Nat
  peer : Nat
  deriving DecidableEq, Repr

def bufOfWords (w : List Nat) : Buf :=
  ⟨w.getD 0 0, fld (w.getD 1 0) 39 0, bitAt (w.getD 1 0) 52, fld (w.getD 1 0) 51 48, fld (w.getD 2 0) 5 0⟩
def bufOf (k : Core) (i : Nat) : Buf := bufOfWords (bufWords k i)

/-- The address of byte offset o of a buffer; a WRAP buffer takes offsets, as 64-bit unsigned numbers, modulo SIZE
(R79). -/
def Buf.addr (b : Buf) (o : Int) : Nat :=
  if b.wrap then b.base + pattern 64 o % b.size else ((b.base : Int) + o).toNat

/-- Is byte offset o within [BASE, BASE + SIZE). -/
def Buf.holds (b : Buf) (o : Int) : Bool := b.wrap || (decide (0 ≤ o) && decide (o < (b.size : Int)))

/-! ## Semaphores -/

def Core.sem (k : Core) (pair : Nat) (side : Bool) : Nat := Table.get 0 (if side then k.semE else k.semF) pair
def Core.setSem (k : Core) (pair : Nat) (side : Bool) (v : Nat) : Core :=
  if side then { k with semE := Table.set 0 k.semE pair v } else { k with semF := Table.set 0 k.semF pair v }

/-- A wait: pair, side, count (R54). -/
structure Wait where
  pair : Nat
  side : Bool
  count : Nat
  tile : Bool
  deriving DecidableEq, Repr

/-- The active waits of an op (Table 2.5). -/
def opWaits (w : List Nat) : List Wait :=
  (List.range 4).filterMap (fun i =>
    let x := fld (w.getD 2 0) (16 * i + 15) (16 * i)
    if bitAt x 7 then some ⟨fld x 5 0, bitAt x 6, fld x 15 8, bitAt (w.getD 4 0) (16 + i)⟩ else none)

/-- Every named counter holds at least its n; of two waits of one op on one counter, the sum of both (R54, log 100). -/
def Core.waitsOk (k : Core) (ws : List Wait) : Bool :=
  let need (p : Nat) (sd : Bool) : Nat := ((ws.filter (fun w => w.pair == p && w.side == sd)).map Wait.count).foldl (· + ·) 0
  ws.all (fun w => decide (need w.pair w.side ≤ k.sem w.pair w.side))

/-- Take n units off the front of the signals that no wait has taken. -/
def dropUnits : Nat → List SigNote → List SigNote
  | _, [] => []
  | n, x :: t =>
    if n = 0 then x :: t else if x.count ≤ n then dropUnits (n - x.count) t else { x with count := x.count - n } :: t

/-- The source of unit n of the list, counted from 1. -/
def unitFrom : Nat → List SigNote → Option SigSrc
  | _, [] => none
  | n, x :: t => if n = 0 then none else if n ≤ x.count then x.src else unitFrom (n - x.count) t

/-- Key of a counter: pair and side. -/
def ctrKey (pair : Nat) (side : Bool) : Nat := 2 * pair + b2n side

/-- Units of a counter that are older than the signals noted for it: its initial count. -/
def Core.oldUnits (k : Core) (pair : Nat) (side : Bool) : Nat :=
  k.sem pair side - ((Table.get [] k.remote (ctrKey pair side)).map SigNote.count).foldl (· + ·) 0

/-- Subtract each n in one action (R54); the oldest units go first. -/
def Core.takeWaits (k : Core) (ws : List Wait) : Core :=
  ws.foldl (fun k w =>
    let left := dropUnits (w.count - k.oldUnits w.pair w.side) (Table.get [] k.remote (ctrKey w.pair w.side))
    { k.setSem w.pair w.side (k.sem w.pair w.side - w.count) with
      remote := Table.set [] k.remote (ctrKey w.pair w.side) left }) k

/-- A signal of an op: TILE flag and target (Table 2.5). An active signal of count 0 adds nothing (R55, R61, log 101). -/
def opSig (w : List Nat) (i : Nat) : Option (Bool × Sig) :=
  let x := fld (w.getD 3 0) (32 * i + 31) (32 * i)
  if bitAt x 7 then some (bitAt x 22, ⟨fld x 21 16, fld x 5 0, bitAt x 6, fld x 15 8⟩) else none

/-! ## Core faults -/

/-- What a fault does (Tables 2.10 and 8.8). -/
inductive Act where
  | poison | drop | halt | knell (cause : Nat) | propagate
  deriving DecidableEq, Repr

/-- Halt policy of a fault class: class 0 takes the step's (R226). -/
def State.haltPolicy (s : State) (fclass : Nat) : Bool := if fclass = 0 then s.ep.halt else fclass == 2

/-- Can the twin serve a refetch (R227, R353). -/
def State.canRefetch (s : State) : Bool := s.twin.st == 1 && (s.port .pt).trained

def State.faultAct (s : State) (fclass code : Nat) (write : Bool) : Act :=
  if fclass = 3 then .knell 0x01
  else
    let h := s.haltPolicy fclass
    match code with
    | 0x20 => if h then (if s.canRefetch then .halt else .knell 0x02) else .poison
    | 0x10 => if h then .halt else if write then .drop else .poison
    | 0x13 => if h then .halt else if write then .drop else .poison
    | 0x21 => .propagate
    | 0x04 => if h then .knell 0x01 else .poison
    | _ => .knell 0x01

/-- Log a core fault from the core's source and keep it for the snare (R70, Table 14.8). -/
def State.logFault (s : State) (c code opid d1 : Nat) : State :=
  (s.logEvent 1 c code opid d1).updCore c (fun k => { k with fault := some (code, opid) })

/-- A fault whose action is the knell. -/
def State.faultKnell (s : State) (c code opid d1 cause : Nat) : State :=
  (s.logFault c code opid d1).raiseKnell cause code 1 c

/-- Apply a signal on its core; a counter that would pass 65,535 raises SEM_OVERFLOW (R56, R70). `src`: of a signal of another
member, where it came from (R306). -/
def State.applySigOf (s : State) (g : Sig) (from_ : Nat) (src : Option SigSrc) : State :=
  let k := s.core g.core
  let v := k.sem g.pair g.side + g.count
  if 65535 < v then
    s.faultKnell g.core 0x02 0xFFFF (place from_ 16 + place (b2n g.side) 8 + g.pair) 0x01
  else s.setCore g.core { k.setSem g.pair g.side v with
    remote := Table.upd [] k.remote (ctrKey g.pair g.side) (· ++ [⟨g.count, src⟩]) }

/-- Apply a signal of the device itself. -/
def State.applySig (s : State) (g : Sig) (from_ : Nat) : State := s.applySigOf g from_ none

end Sys2Proof.Machine
end

