-- ==== Sys2Proof/Machine/Layouts.lean ====
section
/-!
DEFINITION. The layouts of the pattern image (R486 to R488), of its remote and attachment tables (R299, R318),
of the reduction plan (R315) and of the carillon payload (R292 to R294).
-/
namespace Sys2Proof.Machine

/-- Word i of a byte string. -/
def wordOf (bs : List Byte) (i : Nat) : Nat := leNat ((bs.drop (8 * i)).take 8)

/-! ## The pattern image -/

/-- A section of a pattern image (Table 21.6); `off` is where its bytes begin. -/
structure Sect where
  typ : Nat
  core : Nat
  target : Nat
  len : Nat
  off : Nat
  rsv : Nat
  deriving DecidableEq, Repr

/-- The section headers, in order, from a byte offset (R487). -/
def sectsGo (img : List Byte) : Nat → Nat → List Sect
  | 0, _ => []
  | n + 1, o =>
    let h := img.drop o
    let s : Sect := ⟨fld (wordOf h 0) 63 56, fld (wordOf h 0) 55 48, wordOf h 1, fld (wordOf h 0) 31 0, o + 16,
      fld (wordOf h 0) 47 32⟩
    s :: sectsGo img n (roundUp (o + 16 + s.len) 8)

def sectsOf (img : List Byte) : List Sect := sectsGo img (min 1024 (fld (wordOf img 0) 15 0)) 128
def sectBytes (img : List Byte) (s : Sect) : List Byte := (img.drop s.off).take s.len
def sectFor (img : List Byte) (typ core : Nat) : Option Sect :=
  (sectsOf img).find? (fun s => s.typ == typ && s.core == core)

/-- Bytes of a section, empty where the image has none. -/
def sectData (img : List Byte) (typ core : Nat) : List Byte :=
  match sectFor img typ core with
  | some s => sectBytes img s
  | none => []

def patTsize (img : List Byte) : Nat := fld (wordOf img 2) 63 56 + 1
def patSsize (img : List Byte) : Nat := fld (wordOf img 2) 55 48 + 1
def patStage (img : List Byte) : Nat := fld (wordOf img 2) 47 40
def patDecode (img : List Byte) : Bool := bitAt (wordOf img 2) 2
def patQuiet (img : List Byte) : Bool := bitAt (wordOf img 2) 1
def patSfu (img : List Byte) : Nat := fld (wordOf img 2) 0 0
def patPoolFirst (img : List Byte) : Nat := fld (wordOf img 4) 63 40
def patPoolCount (img : List Byte) : Nat := fld (wordOf img 4) 39 16
/-- The wait limit in ns; 0 means 50 ms (R71). -/
def patWaitLimit (img : List Byte) : Nat :=
  let w := fld (wordOf img 4) 15 0
  (if w = 0 then 50 else w) * 1000000
def patExplicit (img : List Byte) : Nat := fld (wordOf img 9) 7 0 * 2 ^ 20

/-- `n` bytes at offset o of a core's DECLARE section (Table 21.8), as a number. -/
def declNum (img : List Byte) (c o n : Nat) : Nat := leNat (((sectData img 3 c).drop o).take n)
def declFull (img : List Byte) (c p : Nat) : Nat := declNum img c (32 + 4 * p) 2
def declEmpty (img : List Byte) (c p : Nat) : Nat := declNum img c (34 + 4 * p) 2
def declBnd (img : List Byte) (c i : Nat) : Nat := declNum img c (288 + 4 * i) 4
def declRing (img : List Byte) (c : Nat) : Nat × Nat := (declNum img c 416 4, declNum img c 420 4)
def declStroke (img : List Byte) (c : Nat) : Nat := declNum img c 424 8
def declTags (img : List Byte) (c : Nat) : Nat := declNum img c 432 2
def declDigests (img : List Byte) (c : Nat) : List Nat :=
  (List.range (min 16 (declNum img c 434 2))).map (fun i => declNum img c (440 + 2 * i) 2)
def declExternal (img : List Byte) (c : Nat) : Nat := declNum img c 472 8

/-- A remote binding (Table 12.4). -/
structure Binding where
  arg : Nat
  mode : Nat
  ax : Nat
  rcore : Nat
  core : Nat
  rsv : Nat
  buf : Nat
  deriving DecidableEq, Repr

def bindingOf (w : Nat) : Binding :=
  ⟨fld w 63 32, fld w 31 30, fld w 29 28, fld w 27 22, fld w 21 16, fld w 15 10, fld w 9 0⟩
def bindingsOf (img : List Byte) : List Binding := (words64 (sectData img 4 255)).map bindingOf

/-- An attachment entry (Table 13.5). -/
structure Attach where
  pop : Nat
  out : Bool
  once : Bool
  side : Bool
  pair : Nat
  core : Nat
  buf : Nat
  rsv : Nat
  deriving DecidableEq, Repr

def attachOf (w : Nat) : Attach :=
  ⟨fld w 63 52, bitAt w 47, bitAt w 46, bitAt w 45, fld w 44 39, fld w 21 16, fld w 9 0,
   fld w 51 48 + fld w 38 22 + fld w 15 10⟩
def attachesOf (img : List Byte) : List Attach := ((words64 (sectData img 5 255)).drop 2).map attachOf
/-- The spill declaration: core and buffer (R487). -/
def spillDecl (img : List Byte) : Option (Nat × Nat) :=
  let w := wordOf (sectData img 5 255) 0
  if bitAt w 63 then some (fld w 21 16, fld w 9 0) else none

/-! ## The reduction plan -/

structure PlanOp where
  tree : Nat
  early : Bool
  all : Bool
  kind : Nat
  ch : Nat
  len : Nat
  rsv : Nat
  deriving DecidableEq, Repr

def planNops (p : List Byte) : Nat := fld (wordOf p 0) 63 32
def planNtree (p : List Byte) : Nat := fld (wordOf p 0) 23 16
def planSpillBase (p : List Byte) : Nat := wordOf p 1
def planSpillSize (p : List Byte) : Nat := wordOf p 2

def planOpOf (p : List Byte) (i : Nat) : PlanOp :=
  let w (k : Nat) : Nat := wordOf p (8 + 4 * i + k)
  ⟨fld (w 0) 34 32, bitAt (w 0) 31, fld (w 0) 30 29 == 1, fld (w 0) 26 24, 64 * fld (w 0) 8 0, fld (w 1) 31 0,
   fld (w 0) 63 35 + fld (w 0) 28 27 + fld (w 0) 23 9 + fld (w 1) 63 32 + w 2 + w 3 +
     (if 1 < fld (w 0) 30 29 then 1 else 0)⟩

/-- Bytes of one tree of M entries. -/
def treeBytes (m : Nat) : Nat := 8 + roundUp (4 * m) 8
/-- Byte offset of tree t. -/
def treeOff (p : List Byte) (m t : Nat) : Nat := 64 + 32 * planNops p + treeBytes m * t
def treeAx (p : List Byte) (m t : Nat) : Nat := fld (leNat ((p.drop (treeOff p m t)).take 8)) 1 0
/-- Tree entry of member k: parent and position (Table 13.4). -/
def treeEntry (p : List Byte) (m t k : Nat) : Nat × Nat :=
  let w := leNat ((p.drop (treeOff p m t + 8 + 4 * k)).take 4)
  (fld w 31 16, fld w 2 0)
def treeIsRoot (p : List Byte) (m t k : Nat) : Bool := (treeEntry p m t k).1 == 0xFFFF
/-- Children of member k with their positions. -/
def treeKids (p : List Byte) (m t k : Nat) : List (Nat × Nat) :=
  (List.range m).filterMap (fun j =>
    let e := treeEntry p m t j
    if e.1 = k then some (j, e.2) else none)

/-- Wire and injected (= delivered) bytes of an element by kind (Table 13.3). -/
def kindWire (kind : Nat) : Nat := if kind = 3 then 32 else if kind = 4 then 1 else 4
def kindElem (kind : Nat) : Nat := if kind = 3 then 32 else if kind = 4 then 1 else if kind = 1 then 2 else 4

/-- Wire bytes of an instance, its chunks, and the chunk buffer size B (R320). -/
def PlanOp.wire (o : PlanOp) : Nat := o.len * kindWire o.kind
def PlanOp.chunks (o : PlanOp) : Nat := ceilDiv o.wire o.ch
def PlanOp.bufSize (o : PlanOp) : Nat := 256 * ceilDiv (36 + o.ch) 256
/-- Wire bytes of chunk k. -/
def PlanOp.chunkLen (o : PlanOp) (k : Nat) : Nat := min o.ch (o.wire - k * o.ch)

/-! ## The carillon payload -/

/-- The record that a CARILLON_FORM payload describes (R292 to R294); none when it is too short. -/
def carRecOf (bs : List Byte) : Option CarRec :=
  let d := (words64 (bs.take 64))
  let r0 : CarRec := ⟨d, [], [], [], []⟩
  let m := r0.count
  let ringB := roundUp (2 * r0.sw) 8
  let planLen := fld (d.getD 5 0) 63 32
  if bs.length ≠ 64 + 8 * m + ringB + planLen || 20480 < m || r0.sw = 0 || 20480 < r0.sw then none
  else
    let rest := bs.drop 64
    let ring := (List.range r0.sw).map (fun i => leNat (((rest.drop (8 * m)).drop (2 * i)).take 2))
    some ⟨d, words64 (rest.take (8 * m)), ring, (rest.drop (8 * m + ringB)).take planLen, []⟩

/-- Place of a sequence index on the ring (R294). -/
def CarRec.placeOf (r : CarRec) (q : Nat) : Nat := (r.ring.takeWhile (· != q)).length
/-- Member with the given axis indices (R291). -/
def CarRec.memberAt (r : CarRec) (t s q : Nat) : Nat := (q * r.ssize + s) * r.tsize + t
/-- Members of a group along an axis, the other indices as member m's. -/
def CarRec.group (r : CarRec) (ax m : Nat) : List Nat :=
  let (t, s, q) := r.axes m
  if ax = 0 then (List.range r.tsize).map (fun i => r.memberAt i s q)
  else if ax = 1 then (List.range r.ssize).map (fun i => r.memberAt t i q)
  else (List.range r.sw).map (fun i => r.memberAt t s i)

/-- Resolve a binding of mode REL, AXIS or MEMBER against the carillon (R299). -/
def CarRec.resolve (r : CarRec) (b : Binding) : Nat :=
  let (t, s, q) := r.axes r.self
  let modAdd (x n : Nat) : Nat := ((((x : Int) + signed 32 b.arg) % (n : Int))).toNat
  match b.mode with
  | 0 =>
    if b.ax = 0 then r.memberAt (modAdd t r.tsize) s q
    else if b.ax = 1 then r.memberAt t (modAdd s r.ssize) q
    else r.memberAt t s (r.ring.getD (modAdd (r.placeOf q) r.sw) 0)
  | 1 =>
    if b.ax = 0 then (if b.arg < r.tsize then r.memberAt b.arg s q else r.count)
    else if b.ax = 1 then (if b.arg < r.ssize then r.memberAt t b.arg q else r.count)
    else (if b.arg < r.sw then r.memberAt t s b.arg else r.count)
  | _ => b.arg

end Sys2Proof.Machine
end

