-- ==== Sys2Proof/Machine/Frames.lean ====
section
/-!
DEFINITION. Frames of the KV pool (R189), the eviction policy (R198), page records (R190) and the copies between
frames and home memory, as shared operations. An eviction that the policy needs runs whole within the
command that needs the frame (log 22).
-/
namespace Sys2Proof.Machine

/-! ## Bulk copies of 256 KiB -/

/-- Entries of a memory in a range, by offset. -/
def Mem.slice (m : Mem) (a n : Nat) : Mem :=
  (m.filter (fun e => decide (a ≤ e.1) && decide (e.1 < a + n))).map (fun e => (e.1 - a, e.2))
/-- Replace a range by the entries given by offset; the rest of the range reads 0. -/
def Mem.blit (m : Mem) (a n : Nat) (src : Mem) : Mem :=
  (m.takeWhile (fun e => decide (e.1 < a))) ++
    ((src.filter (fun e => decide (e.1 < n) && e.2 != Mem.unlisted)).map (fun e => (a + e.1, e.2))) ++
    (m.filter (fun e => decide (a + n ≤ e.1)))

def pageBytes : Nat := 262144

/-- Offsets (in units of 64 bytes) of poisoned words of a DRAM range, an uncorrectable burst among them. -/
def State.dramBad (s : State) (a n : Nat) : List Nat :=
  let b0 := a / 128
  let p := s.dram.poison.filter (fun b => decide (b0 ≤ b) && decide (b < (a + n) / 128))
  let e := (s.dram.errs.map Prod.fst).filter (fun b => decide (b0 ≤ b) && decide (b < (a + n) / 128) &&
    (match s.dramOut b with | .ue => true | _ => false))
  (p ++ e).flatMap (fun b => [2 * (b - b0), 2 * (b - b0) + 1])

def State.hostBadWords (s : State) (a n : Nat) : List Nat :=
  (s.host.poison.filter (fun w => decide (a / 64 ≤ w) && decide (w < (a + n) / 64))).map (· - a / 64)

/-- Fill a DRAM range with entries by offset; `bad` are poisoned 64-byte words by offset. The write is mirrored
and invalidates fetch lines like any other (R224, R357). -/
def State.dramFill (s : State) (a n : Nat) (src : Mem) (bad : List Nat) : State :=
  if s.twin.mirroring || s.resyncMirrors a then
    s.dramWrite ((List.range n).map (fun i => (a + i, src.read i, bad.contains (i / 64))))
  else
    let b0 := a / 128
    let inR (b : Nat) : Bool := decide (b0 ≤ b) && decide (b < (a + n) / 128)
    { s with
      dram := { s.dram with
        bytes := s.dram.bytes.blit a n src,
        poison := bad.foldl (fun p w => NatSet.insert p (b0 + w / 2)) (s.dram.poison.filter (fun b => !inR b)),
        errs := s.dram.errs.filter (fun e => !inR e.1) },
      fab := { s.fab with fetch := s.fab.fetch.filter (fun l => decide (l < a / 1024) || decide ((a + n) / 1024 ≤ l)) } }

/-- The bytes of a DRAM range as its reads deliver them, by offset: those of bursts with standing errors as the decoder gives
them, the others as they stand (R253, R255). -/
def State.dramSlice (s : State) (a n : Nat) : Mem :=
  let odd := (s.dram.errs.map Prod.fst).filter (fun b => decide (a ≤ b * 128) && decide (b * 128 + 128 ≤ a + n))
  (odd.flatMap (fun b => (List.range 128).map (b * 128 + ·))).foldl (fun m x => m.write (x - a) (s.dramByte x)) (s.dram.bytes.slice a n)

/-- Copy a frame to its home; none on a host error. Its reads count and queue what they meet (R253, R259). -/
def State.copyOut (s : State) (frame home : Nat) : Option State :=
  let a := frame * pageBytes
  let h := home * 4096
  if s.hostBad h pageBytes then none
  else
    let keep := s.host.poison.filter (fun w => decide (w < h / 64) || decide ((h + pageBytes) / 64 ≤ w))
    some (({ s with host := { s.host with
      bytes := s.host.bytes.blit h pageBytes (s.dramSlice a pageBytes),
      poison := (s.dramBad a pageBytes).foldl (fun p w => NatSet.insert p (h / 64 + w)) keep } }).dramNoteRange a pageBytes)

/-- Copy a home into a frame; none on a host error. -/
def State.copyIn (s : State) (home frame : Nat) : Option State :=
  let h := home * 4096
  if s.hostBad h pageBytes then none
  else some (s.dramFill (frame * pageBytes) pageBytes (s.host.bytes.slice h pageBytes) (s.hostBadWords h pageBytes))

/-- Copy one frame to another. -/
def State.copyFrame (s : State) (src dst : Nat) : State :=
  let a := src * pageBytes
  (s.dramFill (dst * pageBytes) pageBytes (s.dramSlice a pageBytes) (s.dramBad a pageBytes)).dramNoteRange a pageBytes

/-! ## Frames and the eviction policy -/

/-- Frames that page records hold, or that a write in flight keeps (R197). -/
def State.framesUsed (s : State) : List Nat :=
  s.kv.draining.map Prod.snd ++ s.kv.recs.filterMap (fun e => match e.2 with
    | some p => if p.st = 0 then none else some p.frame
    | none => none)

def State.frameRetired (s : State) (f : Nat) : Bool := NatSet.has s.img.retired f || NatSet.has s.img.retiredNow f

def firstFree (bad : Nat → Bool) : Nat → Nat → Option Nat
  | 0, _ => none
  | n + 1, f => if bad f then firstFree bad n (f + 1) else some f

/-- The lowest free frame of the loaded pattern's pool (R189). -/
def State.freeFrame (s : State) : Option Nat :=
  if s.pat.st = .none then none
  else
    let used := s.framesUsed
    firstFree (fun f => used.contains f || s.frameRetired f) (patPoolCount s.pat.image) (patPoolFirst s.pat.image)

/-- Does the policy prefer page a over page b (R198). -/
def victimBefore (a b : Nat × Page) : Bool :=
  if a.2.dirty != b.2.dirty then !a.2.dirty
  else if a.2.stamp != b.2.stamp then decide (a.2.stamp < b.2.stamp)
  else decide (a.1 < b.1)

def insertBy {α : Type} (lt : α → α → Bool) (x : α) : List α → List α
  | [] => [x]
  | y :: t => if lt x y then x :: y :: t else y :: insertBy lt x t
def sortBy {α : Type} (lt : α → α → Bool) (l : List α) : List α := l.foldr (insertBy lt) []

/-- The pages that the policy may pick, in the order in which it would; one with a write in flight would give no frame
(R197, log 94). -/
def State.victims (s : State) : List (Nat × Page) :=
  sortBy victimBefore (s.kv.recs.filterMap (fun e => match e.2 with
    | some p => if p.st = 2 && p.pin = 0 && !p.evpend && p.home ≠ 0 && p.inflight = 0 then some (e.1, p) else none
    | none => none))

/-- Evict the first page of the list whose copy succeeds; a host error is logged and the page stays (R195). -/
def State.evictOne (s : State) : List (Nat × Page) → State × Option Nat
  | [] => (s, none)
  | (r, p) :: t =>
    if !p.dirty then (s.toHost r, some p.frame)
    else match s.copyOut p.frame p.home with
      | some s' => (s'.toHost r, some p.frame)
      | none => State.evictOne (s.logCp 0x13 r (p.home * 4096)) t

/-- A frame for a page: a free one, else the eviction policy's (R190, R198). -/
def State.takeFrame (s : State) : State × Option Nat :=
  match s.freeFrame with
  | some f => (s, some f)
  | none => s.evictOne (s.victims.filter (fun e => !s.frameRetired e.2.frame))

/-! ## Page records -/

/-- HOME of a region page: bits [63:12] of its host address, 0 for none (R189). -/
def State.homeOf (s : State) (seq page : Nat) : Nat := (Table.get [] s.kv.homes seq).getD page 0 / 4096

def State.freeRec (s : State) : Option Nat :=
  firstFree (fun r => (s.page r).isSome || s.kv.draining.any (fun e => e.1 == r))
    (min 4194304 (s.kv.recs.length + s.kv.draining.length + 1)) 0

def State.setRec (s : State) (r : Nat) (p : Option Page) : State :=
  { s with kv := { s.kv with recs := Table.set none s.kv.recs r p } }
def State.setMap (s : State) (seq page : Nat) (r : Option Nat) : State :=
  { s with kv := { s.kv with map := Table.set 0 s.kv.map (mapKey seq page) (match r with | some x => x + 1 | none => 0) } }

/-- A page record in DEVICE for an unmapped page (R190); none when no frame or record can be had. -/
def State.newPage (s : State) (seq page : Nat) : State × Option Nat :=
  match s.freeRec with
  | none => (s, none)
  | some r => match s.takeFrame with
    | (s, none) => (s, none)
    | (s, some f) =>
      ((s.setRec r (some ⟨s.homeOf seq page, f, 2, true, false, 0, 1, s.beatStamp, 0, false, false⟩)).setMap seq page (some r),
       some r)

/-- Begin a promotion (Table 7.6): the page takes a frame and moves to PROMOTING; false when no frame is had. -/
def State.promote (s : State) (r : Nat) : State × Bool :=
  match s.takeFrame with
  | (s, none) => (s, false)
  | (s, some f) => ((Page.upd s r (fun p => { p with st := 1, frame := f })).startCopy r, true)

/-- Add a pin; a pin abandons the copy of an EVICTING page (Table 7.6). -/
def State.pinPage (s : State) (r : Nat) : State :=
  Page.upd (s.abandonEvict r) r (fun p => { p with pin := p.pin + 1 })

/-- Release the pins that a command took, and the pages that it made: record, and its map key when made. -/
def State.undoPins (s : State) (us : List (Nat × Option Nat)) : State :=
  us.foldl (fun s u => match u.2 with
    | some k => (s.setRec u.1 none).setMap (k / 2 ^ 22) (k % 2 ^ 22) none
    | none => s) (s.unpinAll (us.map Prod.fst))

def State.unpinPage (s : State) (r : Nat) : State := s.unpinAll [r]

/-- Pages of a region that positions p0 to p1 - 1 touch, over every layer and head held (R182). -/
structure Geom where
  g : Nat
  kblk : Nat
  vblk : Nat
  layers : Nat
  heads : Nat
  maxg : Nat
  run : Nat
  sw : Nat
  sidx : Nat
  d : Nat
  kf : Nat
  vf : Nat
  deriving DecidableEq, Repr

def grainOf (code : Nat) : Nat := 512 <<< code
/-- Head dimension by DCODE (Table 6.3). -/
def headDim : Nat → Nat
  | 0 => 64 | 1 => 96 | 2 => 128 | 3 => 192 | _ => 256

def geomOf (h : List Nat) : Geom :=
  let q (i : Nat) : Nat := h.getD i 0
  { g := grainOf (fld (q 0) 11 10), kblk := fld (q 3) 31 0, vblk := fld (q 3) 63 32, layers := fld (q 0) 23 16 + 1,
    heads := fld (q 2) 36 32 + 1, maxg := fld (q 2) 31 0, run := fld (q 1) 47 32, sw := fld (q 1) 15 0,
    sidx := fld (q 1) 31 16, d := headDim (fld (q 0) 14 12), kf := fld (q 0) 4 0, vf := fld (q 0) 9 5 }

/-- Owner of grain k and its local index there (R181). -/
def Geom.owner (m : Geom) (k : Nat) : Nat := k / m.run % m.sw
def Geom.local_ (m : Geom) (k : Nat) : Nat := k / (m.run * m.sw) * m.run + k % m.run

/-- Region offset of the key block of layer l, head h, local index j (R182). -/
def Geom.blockOff (m : Geom) (l h j : Nat) : Nat := ((l * m.heads + h) * m.maxg + j) * (m.kblk + m.vblk)

/-- Format of a code, FP32 for one that Table 1.1 reserves. -/
def fmtOf (c : Nat) : Fmt := (Fmt.ofCode c).getD .fp32

/-- Row bytes of a block and its scale bytes per row (R180). -/
def rowBytes (f : Fmt) (d : Nat) : Nat := d * f.bits / 8
def rowScale (f : Fmt) (d : Nat) : Nat := (d / 32) * f.scaleBytes
def blockBytes (f : Fmt) (g d : Nat) : Nat := roundUp (g * rowBytes f d + g * rowScale f d) 4096

/-- Byte ranges (offset, length) of row n of the key and of the value block of (l, h, j): elements, then scales. -/
def Geom.rowRanges (m : Geom) (l h j n : Nat) : List (Nat × Nat) :=
  let o := m.blockOff l h j
  let one (o : Nat) (f : Fmt) : List (Nat × Nat) :=
    let rb := rowBytes f m.d
    let sb := rowScale f m.d
    (o + n * rb, rb) :: (if sb = 0 then [] else [(o + m.g * rb + n * sb, sb)])
  one o (fmtOf m.kf) ++ one (o + m.kblk) (fmtOf m.vf)

/-- Region pages that hold a byte of positions p0 to p1 - 1 that this member owns. -/
def Geom.pagesOf (m : Geom) (p0 p1 : Nat) : List Nat :=
  ((List.range (p1 - p0)).map (p0 + ·)).foldl (fun acc p =>
    let k := p / m.g
    if m.owner k = m.sidx then
      (List.range m.layers).foldl (fun acc l => (List.range m.heads).foldl (fun acc h =>
        (m.rowRanges l h (m.local_ k) (p % m.g)).foldl (fun acc r =>
          (List.range ((r.1 + r.2 + pageBytes - 1) / pageBytes - r.1 / pageBytes)).foldl (fun acc i =>
            NatSet.insert acc (r.1 / pageBytes + i)) acc) acc) acc) acc
    else acc) []

end Sys2Proof.Machine
end

