-- ==== Sys2Proof/Machine/Router.lean ====
section
/-!
DEFINITION. Messages to other members (R299 to R302), remote signals (R207, R306) and the reductions of the
router (R319 to R334), as shared operations.
-/
namespace Sys2Proof.Machine

/-! ## Epoch checks -/

/-- Is a number the device's current epoch while a step runs (R302, R333). -/
def State.runsEpoch (s : State) (e : Nat) : Bool := s.running && e == s.ep.next
/-- Does a BULK message or chunk of epoch e still count toward ABS (R344). -/
def State.countsEpoch (s : State) (e : Nat) : Bool := e == s.ep.next && (s.ep.st != .idle || !s.ep.quiet)
def State.absorbed (s : State) (e : Nat) : State :=
  if s.countsEpoch e then { s with ep := { s.ep with absorbed := s.ep.absorbed + 1 } } else s
def State.originated (s : State) (n : Nat) : State := { s with ep := { s.ep with orig := s.ep.orig + n } }

/-! ## Remote signals -/

/-- A signal of another member, applied as a local one (R55, R207), noted for lateness (R306). -/
def State.remoteSig (s : State) (g : Sig) (src : Nat) (port : Nat) : State :=
  let stroke := (declStroke s.pat.image g.core).testBit g.pair
  let i := Table.get 0 (s.core g.core).strokes g.pair
  let s := s.applySigOf g src (some ⟨src, port, i, s.now⟩)
  if stroke then s.updCore g.core (fun k => { k with strokes := Table.set 0 k.strokes g.pair (i + 1) }) else s

def addAt (l : List (Nat × Nat × Nat)) (i x : Nat) : List (Nat × Nat × Nat) :=
  match l[i]? with
  | some (n, t, m) => l.set i (n + 1, t + x, max m x)
  | none => l

/-- The signal of another member that satisfies a wait, if one does: the one that brings the counter to what this wait and the
`before` units of the op's other waits need (R306). -/
def Core.satisfier (k : Core) (w : Wait) (before : Nat) : Option SigSrc :=
  let n := before + w.count
  let old := k.oldUnits w.pair w.side
  if n ≤ old then none else unitFrom (n - old) (Table.get [] k.remote (ctrKey w.pair w.side))

/-- One remote wait's lateness, from its start to its satisfaction, to its port, its stroke and its source (R306, R307). -/
def State.addLate (s : State) (c pair x src port i : Nat) : State :=
  let l := s.car.late
  let stroke := (declStroke s.pat.image c).testBit pair && decide (i < 256)
  { s with car := { s.car with late := { l with
      ports := addAt l.ports port x,
      strokes := if stroke then Table.upd 0 l.strokes i (· + x) else l.strokes,
      suffer := l.suffer + x, wsuffer := l.wsuffer + x,
      srcs := Table.upd 0 l.srcs src (· + x), wsrcs := Table.upd 0 l.wsrcs src (· + x) } } }

/-- Record the lateness of the waits that an op takes, when signals of other members satisfied them (R306, R307, log 122). -/
def State.noteLate (s : State) (c start : Nat) : List Wait → List Wait → State
  | _, [] => s
  | done, w :: ws =>
    let before := ((done.filter (fun x => x.pair == w.pair && x.side == w.side)).map Wait.count).foldl (· + ·) 0
    match (s.core c).satisfier w before with
    | none => s.noteLate c start (w :: done) ws
    | some r => (s.addLate c w.pair (r.at_ - start) r.member r.port r.index).noteLate c start (w :: done) ws

/-! ## Receiving a message (R302) -/

/-- Does one buffer table entry of the space hold the destination bytes. -/
def State.bufferHolds (s : State) (space rcore a n : Nat) : Bool :=
  let ok (c : Nat) : Bool :=
    let k := s.core c
    (List.range (ctlTable k 2).2).any (fun j =>
      let b := bufOf k j
      b.space == space && decide (b.base ≤ a) && decide (a + n ≤ b.base + b.size))
  n == 0 || (if space = 0 then ok rcore else s.participants.any ok)

/-- Note that a core-store buffer was written in the epoch (R343): base × 2^23 + size. -/
def State.noteWritten (s : State) (c : Nat) (b : Buf) : State :=
  s.updCore c (fun k => { k with written := NatSet.insert k.written (b.base * 2 ^ 23 + b.size) })

/-- Note the buffers of a core that a range of its store touches. -/
def State.noteRange (s : State) (c a n : Nat) : State :=
  let k := s.core c
  ((List.range (ctlTable k 2).2).filter (fun j =>
    let b := bufOf k j
    b.space == 0 && decide (b.base ≤ a) && decide (a + n ≤ b.base + b.size))).foldl
      (fun s j => s.noteWritten c (bufOf k j)) s

def msgSig (d : MsgDesc) : Option Sig :=
  if d.sigEn then some ⟨d.target.val, d.pair.val, d.side, d.count⟩ else none

/-- The epoch number of a re-formation copy (R302, R336). -/
def reformEpoch : Nat := 0xFFFFFFFFFFFFFFFF

/-- A re-formation gives a sequence a new committed length, logged when it is lower (R312, R314). -/
def State.truncated (s : State) (old c : Nat) : State :=
  if c < old then s.logCar 0x65 (place (old % 2 ^ 32) 32 + c % 2 ^ 32) else s

/-- A re-formation copy that fails (R302, R312): the unit of its sequence gets a status, and COMMITTED ends before the grain
that was not copied. -/
def State.reformFail (s : State) (seq off st : Nat) : State :=
  let m := geomOf (s.hdr seq)
  let j := off / (m.kblk + m.vblk) % m.maxg
  let grain := j / m.run * (m.run * m.sw) + m.sidx * m.run + j % m.run
  let l := s.lens seq
  let c := min l.committed (grain * m.g)
  let s := s.truncated l.committed c
  ({ s with kv := { s.kv with lens := Table.set Lens.init s.kv.lens seq { l with committed := c } } }).settleUnits .shrink seq st none

/-- The region pages of a range, each made when it is unmapped (R190); false when one gets no frame. -/
def State.makePages (s : State) (seq off n : Nat) : State × Bool :=
  ((List.range ((off + n + pageBytes - 1) / pageBytes - off / pageBytes)).map (off / pageBytes + ·)).foldl
    (fun (a : State × Bool) p =>
      if (a.1.pageOf seq p).isSome then a
      else match a.1.newPage seq p with
        | (s, some _) => (s, a.2)
        | (s, none) => (s, false)) (s, true)

/-- A message's data as cells: the words of a flit that POISON marks are poisoned (R289). -/
def messageCells (a : Nat) (poison : List Nat) (data : List Byte) : List Cell :=
  data.mapIdx (fun i b => (a + i, b, poison.contains (flitOf i)))

/-- Write cells into a region through its map, as a re-formation does: 0, or the status of a write that cannot be made. -/
def State.regionWrite (s : State) (seq off : Nat) (cs : List Cell) : State × Nat :=
  match s.makePages seq off cs.length with
  | (s, false) => (s, stNoResource)
  | (s, true) =>
    if cs.any (fun c => !(s.locate c.1 true matches .dram _ _)) then (s, stRejected) else (s.spaceWrite 0 4 0 cs, 0)

/-- A re-formation copy (R302, R312): written through the region map while SHRINK runs; `copiesDue` counts what came. -/
def State.reformCopy (s : State) (d : MsgDesc) (data : List Byte) (poison : List Nat) : State :=
  let seq := d.addr / 2 ^ 40
  let off := d.addr % 2 ^ 40
  if !s.mb.jobs.any (fun j => j.kind == .shrink) then (s.logCar 0x66 d.addr).count 0 11 1
  else if 4095 < seq || !(s.lens seq).isOpen || hdrSize (s.hdr seq) < off + data.length then
    ((s.logCar 0x66 d.addr).count 0 11 1).settleUnits .shrink seq stRejected none
  else match s.regionWrite seq off (messageCells d.addr poison data) with
    | (s, 0) => { s with car := { s.car with copiesDue := Table.upd 0 s.car.copiesDue seq (· + data.length) } }
    | (s, st) => s.reformFail seq off st

/-- Pages of a range of SPACE 4 that a write finds in HOST, and whether one waits for DEVICE (Table 7.6). -/
def State.pagesHome (s : State) (a n : Nat) : List Nat :=
  ((List.range n).filterMap (fun i => if s.locate (a + i) true = .fault 0x10 then s.pageOf ((a + i) / 2 ^ 40) ((a + i) % 2 ^ 40 / pageBytes)
    else none)).foldl NatSet.insert []
def State.pagesWait (s : State) (a n : Nat) : Bool :=
  (List.range n).any (fun i => match s.locate (a + i) true with | .wait _ => true | _ => false)

/-- The faults that a message's writes into SPACE 4 meet, as those of a TMV op of class 0 on its receiving core: the knell, or
the write is dropped and the step poisoned (R202, R227, log 103). -/
def State.messageFaults (s : State) (d : MsgDesc) (n : Nat) : State :=
  let bad := (List.range n).filterMap (fun i => match s.locate (d.addr + i) true with
    | .fault f => some (f, d.addr + i)
    | _ => none)
  match bad.find? (fun x => x.1 != 0x10) with
  | some (f, a) => s.faultKnell d.rcore.val f 0xFFFF a 0x01
  | none => match bad.head? with
    | some (f, a) => (s.logFault d.rcore.val f 0xFFFF a).setPoison
    | none => s

/-- Poison that arrives in a message: the step's flag, and POISON_IN at the core that receives it (R229, R289). -/
def State.poisonIn (s : State) (d : MsgDesc) (poison : List Nat) : State :=
  if poison.isEmpty then s
  else
    let s := s.setPoison
    if d.space = 0 then s.logFault d.rcore.val 0x21 0xFFFF d.addr else s

/-- A BULK message received whole, by port (7: delivered by the own router); `poison`: its flits that POISON marks. -/
def State.receive (s : State) (port : Nat) (d : MsgDesc) (data : List Byte) (poison : List Nat) : State :=
  if d.space = 4 && d.epoch = reformEpoch then s.reformCopy d data poison
  else
    let s := s.absorbed d.epoch
    if !s.runsEpoch d.epoch then
      let s := s.count 0 11 1
      if d.sigEn && port < 7 then s.count 1 (16 * port + 7) 1 else s
    else if !s.bufferHolds d.space d.rcore.val d.addr data.length then
      (s.logCar 0x66 d.addr).raiseKnell 0x05 0 0 0
    else
      let s := if d.space = 4 then s.messageFaults d data.length else s
      if !s.running then s
      else
        let s := s.poisonIn d poison
        let s := if d.space = 0 && !data.isEmpty then s.noteRange d.rcore.val d.addr data.length else s
        let s := if data.isEmpty then s else s.spaceWrite d.rcore.val d.space d.rcore.val (messageCells d.addr poison data)
        match msgSig d with
        | some g => if port < 7 then s.remoteSig g d.src port else s.applySig g d.src
        | none => s

/-! ## Sending (R299 to R301) -/

/-- One message to a member: through the torus, or by the own router to itself. -/
def State.sendMsg (s : State) (r : CarRec) (m : Nat) (d : MsgDesc) (cs : List Cell) : State :=
  let s := s.originated 1
  if m = r.self then s.receive 7 d (cs.map (fun c => c.2.1)) (poisonFlits cs)
  else if r.count ≤ m then s.unrouted .pxp (mkHdr 2 true false (0, 0, 0) 1)
  else (msgFlits 2 (r.coord m) d cs).foldl (fun s f => s.routeFlit none f) s

/-- The descriptor of a message of core c to a member's core (Table 12.6). -/
def State.descFor (s : State) (r : CarRec) (c a space rcore : Nat) (g : Option Sig) : MsgDesc :=
  let t := g.getD ⟨0, 0, false, 0⟩
  ⟨a, space, Fin.ofNat 64 rcore, Fin.ofNat 64 c, r.self, g.isSome, t.side, Fin.ofNat 64 t.core, t.count,
   Fin.ofNat 64 t.pair, s.ep.next⟩

/-- A signal without data to a member: one flit on CONTROL (R208, Table 11.4) whose payload is a descriptor (log 104). -/
def State.sendSignal (s : State) (r : CarRec) (m c : Nat) (b : Buf) (rcore : Nat) (g : Sig) : State :=
  if m = r.self then s.applySig g c
  else if r.count ≤ m then s.unrouted .pxp (mkHdr 0 true false (0, 0, 0) 1)
  else s.routeFlit none (mkHdr 0 true false (r.coord m) 32, descBytes (s.descFor r c b.base b.space rcore (some g)) 0)

/-- The messages of cells to one member; the signal rides in the last (R301). -/
def State.sendRuns (s : State) (r : CarRec) (m c : Nat) (b : Buf) (rcore : Nat) (cs : List Cell) (sig : Option Sig) : State :=
  let mk (a : Nat) (g : Option Sig) : MsgDesc := s.descFor r c a b.space rcore g
  let runs := runsOf cs
  if runs.isEmpty then (if sig.isSome then s.sendMsg r m (mk b.base sig) [] else s)
  else
    let n := runs.length
    (runs.zip (List.range n)).foldl (fun s e =>
      let a := (e.1.headD (0, 0, false)).1
      s.sendMsg r m (mk a (if e.2 + 1 = n then sig else none)) e.1) s

/-- The member that owns a position of an open sequence, along the own sequence group (R181). -/
def State.ownerOf (s : State) (r : CarRec) (seq pos : Nat) : Nat :=
  let (t, st, _) := r.axes r.self
  let m := geomOf (Table.get [] s.kv.hdrs seq)
  r.memberAt t st (m.owner (pos / m.g))

/-- Send the bytes of a tile through a binding; `pitch` gives the row of a byte for OWNER. -/
def State.sendBound (s : State) (r : CarRec) (b : Binding) (bf : Buf) (c pitch : Nat) (cs : List Cell) (sig : Option Sig) : State :=
  if b.mode = 3 then
    let len := (Table.get Lens.init s.kv.lens (b.arg % 4096)).committed
    (r.group 2 r.self).foldl (fun s m =>
      let mine := cs.filter (fun x => s.ownerOf r (b.arg % 4096) (len + (x.1 - bf.base) / pitch) == m)
      if mine.isEmpty && sig.isNone then s else s.sendRuns r m c bf b.rcore mine sig) s
  else s.sendRuns r (r.resolve b) c bf b.rcore cs sig

/-- Send a signal without data through a binding (R208). -/
def State.signalBound (s : State) (r : CarRec) (b : Binding) (bf : Buf) (c : Nat) (g : Sig) : State :=
  (if b.mode = 3 then r.group 2 r.self else [r.resolve b]).foldl (fun s m => s.sendSignal r m c bf b.rcore g) s

/-! ## SIG1 of an op whose stream C is bound (R207) -/

/-- Have all of the device's own flits of these ranges left its router. -/
def State.flitsLeft (s : State) (rs : List (Nat × Nat)) : Bool :=
  allPorts.all (fun p => (s.port p).waitq.all (fun q =>
    q.src.isSome || rs.all (fun r => decide (q.no < r.1) || decide (r.2 ≤ q.no))))

/-- Apply a SIG1 on its own core once the flits that it covers have left. -/
def State.sourceSig (s : State) (c : Nat) (rs : List (Nat × Nat)) (g : Sig) : State :=
  if s.flitsLeft rs then s.applySig g c else { s with rt := { s.rt with owed := s.rt.owed ++ [(c, rs, g)] } }

/-- Flits have left: the signals that waited for them are applied, while the step runs. -/
def State.settleSources (s : State) : State :=
  let due := s.rt.owed.filter (fun o => s.flitsLeft o.2.1)
  let s := { s with rt := { s.rt with owed := s.rt.owed.filter (fun o => !s.flitsLeft o.2.1) } }
  due.foldl (fun s o => if s.running then s.applySig o.2.2 o.1 else s) s

/-! ## Reductions: instances -/

/-- What a plan op is at this node. -/
structure PNode where
  o : PlanOp
  parent : Nat
  root : Bool
  kids : List (Nat × Nat)
  deriving DecidableEq, Repr

def CarRec.pnode (r : CarRec) (pop : Nat) : PNode :=
  let o := planOpOf r.plan pop
  let e := treeEntry r.plan r.count o.tree r.self
  ⟨o, e.1, e.1 == 0xFFFF, treeKids r.plan r.count o.tree r.self⟩

/-- Input positions of a node in ascending order (R316); a BCAST has the root's own input alone (R322). -/
def PNode.inputs (n : PNode) : List Nat :=
  if n.o.kind = 4 then (if n.root then [0] else [])
  else 0 :: sortBy (fun a b => decide (a < b)) (n.kids.map Prod.snd)

/-- Does the result come to this node. -/
def PNode.gets (n : PNode) : Bool := n.root || n.o.all

def State.inst (s : State) (pop use : Nat) : Option Inst := s.rt.insts.find? (fun i => i.pop == pop && i.use == use)
def State.updInst (s : State) (pop use : Nat) (f : Inst → Inst) : State :=
  { s with rt := { s.rt with insts := s.rt.insts.map (fun i => if i.pop == pop && i.use == use then f i else i) } }

def routerBytes : Nat := 8 * 2 ^ 20

/-- First arrival of an instance at this node: claim or spill (R324, R325, R329); a third live instance of a plan op
raises the knell (R327). -/
def State.claim (s : State) (r : CarRec) (pop use : Nat) : State :=
  if (s.inst pop use).isSome || s.rt.doneInsts.contains (pop, use) then s
  else if 2 ≤ (s.rt.insts.filter (fun i => i.pop == pop)).length then
    (s.logCp 0x73 pop use).raiseKnell 0x07 0x73 0 0
  else
    let n := r.pnode pop
    let need := 2 * (n.inputs.length + 1) * n.o.bufSize
    let ok := decide (s.rt.slots < 512) && decide (s.rt.bytes + need ≤ routerBytes)
    let i : Inst := ⟨pop, use, ok, if ok then need else 0, [], [], [], [], [], [], []⟩
    let s := { s with rt := { s.rt with
      insts := s.rt.insts ++ [i], slots := s.rt.slots + b2n ok, bytes := s.rt.bytes + i.claim } }
    if ok then (s.teleMax 0 16 s.rt.slots).teleMax 0 17 s.rt.bytes
    else ((s.count 0 14 1).count 0 15 n.o.wire).logOnce 0 0 0x70 pop use 0

/-- Release a finished instance: its last chunk has left in every direction, and under commit-on-tail is acknowledged (R326). -/
def State.release (s : State) (r : CarRec) (pop use : Nat) : State :=
  match s.inst pop use with
  | none => s
  | some i =>
    let n := r.pnode pop
    let all := n.o.chunks
    let combined := n.inputs.isEmpty || decide (all ≤ i.combined.length)
    let delivered := !n.gets || decide (all ≤ i.delivered.length)
    if combined && delivered && (if n.o.early then s.flitsLeft i.sent else i.outs.isEmpty) then
      { s with rt := { s.rt with
        insts := s.rt.insts.filter (fun j => !(j.pop == pop && j.use == use)),
        slots := s.rt.slots - b2n i.router, bytes := s.rt.bytes - i.claim,
        doneInsts := (pop, use) :: s.rt.doneInsts } }
    else s

/-- Flits have left a port: the signals that waited for them are applied, and the instances that they ended are released (R207,
R326). -/
def State.settleLeft (s : State) : State :=
  let s := s.settleSources
  match s.memberRec with
  | none => s
  | some r => s.rt.insts.foldl (fun s i => s.release r i.pop i.use) s

/-! ## Sending and delivering a chunk -/

/-- The chunk header (Table 13.6). -/
def chunkHdr (epoch use k src n : Nat) : List Byte :=
  bytes64 [epoch % 2 ^ 64, place (use % 2 ^ 32) 32 + place (k % 65536) 16 + src % 65536, place n 32, 0]

/-- Header of a plan flit (Table 13.7). -/
def planHdr (last poison : Bool) (pop : Nat) (down : Bool) (len : Nat) : Nat :=
  place 1 61 + place 1 59 + place (b2n last) 57 + place (b2n poison) 56 + place 1 55 +
  place (pop % 4096) 19 + place (b2n down) 18 + place (len - 1) 8

/-- Send a chunk on the port that reaches a neighbouring member (R321). -/
def State.sendChunk (s : State) (r : CarRec) (pop use k : Nat) (down : Bool) (dest : Nat) (data : List Byte) (poison : List Nat) : State :=
  match s.torus with
  | none => s
  | some t => match t.route (r.coord dest) with
    | .via p =>
      let w := kindWire (planOpOf r.plan pop).kind
      let hd := chunkHdr s.ep.next use k r.self data.length
      let bytes := hd ++ data ++ natLe 4 (crc32c (hd ++ data))
      let pieces := chunksOf 256 (bytes.length / 256 + 1) bytes
      let n := pieces.length
      let from_ := s.rt.injected
      let s := (pieces.zip (List.range n)).foldl (fun s e =>
        let bad := poison.any (fun x => decide (256 * e.2 < 32 + w * (x + 1)) && decide (32 + w * x < 256 * (e.2 + 1)))
        s.sendFlit p (planHdr (e.2 + 1 == n) bad pop down e.1.length, e.1)) (s.originated 1)
      s.updInst pop use (fun i => { i with sent := i.sent ++ [(from_, s.rt.injected)] })
    | _ => s

/-- Send a chunk and retain it until it is acknowledged (R331). -/
def State.sendKept (s : State) (r : CarRec) (pop use k : Nat) (down : Bool) (dest : Nat) (data : List Byte) (poison : List Nat) : State :=
  (s.updInst pop use (fun i => { i with outs := i.outs ++ [⟨k, down, dest, false, data, poison⟩] })).sendChunk
    r pop use k down dest data poison

/-- Elements of wire data as delivered bytes: BF16 rounds here alone (R322). -/
def deliverBytes (kind : Nat) (data : List Byte) : List Byte :=
  if kind = 1 then (chunksOf 4 (data.length / 4 + 1) data).flatMap (fun e => natLe 2 (encBf (dec32 (leNat e))))
  else data

/-- Injected bytes as wire bytes: BF16 is widened exactly. -/
def wireBytes (kind : Nat) (data : List Byte) : List Byte :=
  if kind = 1 then (chunksOf 2 (data.length / 2 + 1) data).flatMap (fun e => natLe 4 (enc32 (decBf (leNat e))))
  else data

/-- Write a chunk of the result to the OUT buffer and signal it (R319). -/
def State.deliver (s : State) (r : CarRec) (pop use k : Nat) (data : List Byte) (poison : List Nat) : State :=
  let o := (r.pnode pop).o
  let s := s.updInst pop use (fun i => { i with delivered := i.delivered ++ [k] })
  match (attachesOf s.pat.image).find? (fun a => a.pop == pop && a.out) with
  | none => s
  | some a =>
    let b := bufOf (s.core a.core) a.buf
    let e := kindElem o.kind
    let off := k * o.ch / kindWire o.kind * e
    let bs := deliverBytes o.kind data
    let cs : List Cell := (List.range bs.length).map (fun (i : Nat) => (b.addr ((off + i : Nat) : Int), bs.getD i 0, poison.contains (i / e)))
    let s := if poison.isEmpty then s else s.setPoison
    let s := (if b.space = 0 then s.noteWritten a.core b else s).spaceWrite a.core b.space b.peer cs
    let n := ((s.inst pop use).map (fun i => i.delivered.length)).getD 0
    if !a.once || n = o.chunks then s.applySig ⟨a.core, a.pair, a.side, 1⟩ a.core else s

/-! ## Combining (R322) -/

def sumWire (kind : Nat) (xs : List Nat) : Nat :=
  match kind, xs with
  | _, [] => 0
  | 2, x :: t => pattern 32 (t.foldl (fun a y => max a (signed 32 y)) (signed 32 x))
  | 3, x :: t => (t.foldl (fun a y => a.add (Lw.decode y)) (Lw.decode x)).encode
  | 4, x :: _ => x
  | _, x :: t => if t.isEmpty then x else enc32 (t.foldl (fun a y => add32 a (dec32 y)) (dec32 x))

def combineChunks (kind : Nat) (ins : List (List Byte)) : List Byte :=
  let w := kindWire kind
  let n := (ins.headD []).length / w
  (List.range n).flatMap (fun e => natLe w (sumWire kind (ins.map (fun d => leNat ((d.drop (w * e)).take w)))))

/-- The inputs of chunk k in ascending position, when all are present. -/
def Inst.inputsOf (i : Inst) (n : PNode) (k : Nat) : Option (List ChunkIn) :=
  let got := n.inputs.filterMap (fun p => i.ins.find? (fun c => c.k == k && c.pos == p))
  if got.length = n.inputs.length && !got.isEmpty then some got else none

/-- Pass a result chunk down the tree and deliver it (R321, R322). -/
def State.passDown (s : State) (r : CarRec) (pop use k : Nat) (data : List Byte) (poison : List Nat) : State :=
  let n := r.pnode pop
  let s := if n.o.all then
      n.kids.foldl (fun s kid => s.sendKept r pop use k true kid.1 data poison) s
    else s
  s.deliver r pop use k data poison

/-- The contents of poisoned elements are undefined (R228): each of their bytes a free value. -/
def State.blur (s : State) (w : Nat) (bad : List Nat) (data : List Byte) : State × List Byte :=
  if bad.isEmpty then (s, data)
  else (s.drew data.length, data.mapIdx (fun i b => if bad.contains (i / w) then Config.freeByte (s.free + i) else b))

/-- Combine the inputs of chunk k, data and poisoned elements, and send or deliver the output; `upset` is a double-bit error of
its memory (R322, R334). -/
def State.combineOf (s : State) (r : CarRec) (pop use k : Nat) (ins : List (List Byte × List Nat)) (upset : Bool) : State :=
  let n := r.pnode pop
  let w := kindWire n.o.kind
  let data := combineChunks n.o.kind (ins.map Prod.fst)
  let bad := if upset then List.range (data.length / w) else (ins.flatMap Prod.snd).foldl NatSet.insert []
  let s := if upset then s.logCp 0x74 pop use else s
  let s := if bad.isEmpty then s else s.setPoison
  let (s, data) := s.blur w bad data
  let s := s.updInst pop use (fun i => { i with combined := i.combined ++ [k] })
  let s := if n.root then s.passDown r pop use k data bad else s.sendKept r pop use k false n.parent data bad
  s.release r pop use

/-- Combine chunk k when every input is there; `fixed` single-bit errors of its memory are corrected and counted (R334). -/
def State.combine (s : State) (r : CarRec) (pop use k fixed : Nat) (upset : Bool) : State :=
  match s.inst pop use with
  | none => s
  | some i =>
    if i.combined.contains k then s
    else match i.inputsOf (r.pnode pop) k with
      | none => s
      | some ins =>
        let s : State := { s with rt := { s.rt with fixed := s.rt.fixed + fixed } }
        s.combineOf r pop use k (ins.map (fun c => (c.data, c.poison))) upset

/-! ## The spill area (R328) -/

/-- Bytes of the spill area for one plan op: two live instances, the inputs 0 to 5 and the output, every chunk (R317). -/
def PlanOp.spillBytes (o : PlanOp) : Nat := 14 * (o.chunks * o.bufSize)

/-- Place of chunk k in the spill area by plan op, USE mod 2 and input position, 6 for the output (R328, log 45). -/
def spillAt (r : CarRec) (pop use pos k : Nat) : Nat :=
  let o := planOpOf r.plan pop
  planSpillBase r.plan + ((List.range pop).map (fun i => (planOpOf r.plan i).spillBytes)).foldl (· + ·) 0 +
    ((7 * (use % 2) + pos) * o.chunks + k) * o.bufSize

/-- Write an input or the output of a spilled instance to its place in the spill area. -/
def State.spillPut (s : State) (r : CarRec) (pop use pos k : Nat) (data : List Byte) (poison : List Nat) : State :=
  let w := kindWire (planOpOf r.plan pop).kind
  let a := spillAt r pop use pos k
  s.dramWrite (data.mapIdx (fun i b => (a + i, b, poison.contains (i / w))))

/-- Fetch a chunk from its place in the spill area: its bytes, and its elements that are poisoned or cannot be read. -/
def State.spillGet (s : State) (r : CarRec) (pop use pos k : Nat) : List Byte × List Nat :=
  let o := planOpOf r.plan pop
  let a := spillAt r pop use pos k
  let bs := (List.range (o.chunkLen k)).map (fun i => s.dramRByte (a + i) none)
  (bs.map RByte.val,
   (bs.mapIdx (fun i b => (i / kindWire o.kind, b.poison || b.fault != 0))).foldl (fun l e => if e.2 then NatSet.insert l e.1 else l) [])

/-- Keep an input chunk of an instance; in spill mode it goes to the spill area, and the chunk whose inputs it completes joins
the queue of the spill core. -/
def State.addInput (s : State) (r : CarRec) (pop use : Nat) (x : ChunkIn) : State :=
  match s.inst pop use with
  | none => s
  | some i =>
    if i.ins.any (fun c => c.k == x.k && c.pos == x.pos) then s
    else
      let i := { i with ins := i.ins ++ [x] }
      let s := s.updInst pop use (fun _ => i)
      if i.router then s
      else
        let s := s.spillPut r pop use x.pos x.k x.data x.poison
        if (i.inputsOf (r.pnode pop) x.k).isSome then { s with rt := { s.rt with ready := s.rt.ready ++ [(pop, use, x.k)] } } else s

/-! ## Injection (R319) -/

/-- Bytes of a TMV COPY whose stream C names an IN buffer join the running instance of its plan op. -/
def State.injectOne (s : State) (r : CarRec) (pop : Nat) (base : Nat) (cs : List Cell) : State :=
  let use := Table.get 0 s.rt.uses pop
  let s := s.claim r pop use
  let o := (r.pnode pop).o
  let e := kindElem o.kind
  let per := o.ch / kindWire o.kind
  match s.inst pop use with
  | none => s
  | some i =>
    let inj := cs.foldl (fun t c => Table.put t (c.1 - base) (c.2.1, c.2.2)) i.injected
    let newIn := (List.range o.chunks).filterMap (fun k =>
      let lo := k * per * e
      let n := o.chunkLen k / kindWire o.kind * e
      let got := inj.filter (fun x => decide (lo ≤ x.1) && decide (x.1 < lo + n))
      if i.ins.any (fun c => c.k == k && c.pos == 0) || got.length < n then none
      else some (⟨k, 0, wireBytes o.kind (got.map (fun x => x.2.1)),
        (got.filter (fun x => x.2.2)).foldl (fun p x => NatSet.insert p ((x.1 - lo) / e)) []⟩ : ChunkIn))
    let s := newIn.foldl (fun s x => s.addInput r pop use x) (s.updInst pop use (fun i => { i with injected := inj }))
    let full := decide (o.len * e ≤ inj.length)
    { s with rt := { s.rt with
      injBytes := Table.set 0 s.rt.injBytes pop (if full then 0 else inj.length),
      uses := if full then Table.set 0 s.rt.uses pop (use + 1) else s.rt.uses } }

/-! ## The outside of a tile -/

/-- Does a buffer of core c name a space of this device, bound to no plan op and to no member (R299, R319). -/
def State.outLocal (s : State) (c buf : Nat) : Bool :=
  s.memberRec.isNone || !((attachesOf s.pat.image).any (fun a => !a.out && a.core == c && a.buf == buf) ||
    (bindingsOf s.pat.image).any (fun x => x.core == c && x.buf == buf))

/-- Bytes leaving through a buffer of core c: to a plan op, to another member, or into the space that it names;
then the signal. -/
def State.sendOut (s : State) (c buf pitch : Nat) (cs : List Cell) (sig : Option Sig) : State :=
  let b := bufOf (s.core c) buf
  let bind := (bindingsOf s.pat.image).find? (fun x => x.core == c && x.buf == buf)
  let att := (attachesOf s.pat.image).find? (fun a => !a.out && a.core == c && a.buf == buf)
  let local_ (s : State) : State := match sig with
    | some g => s.applySig g c
    | none => s
  match s.memberRec, att, bind with
  | some r, some a, _ => local_ (s.injectOne r a.pop b.base cs)
  | some r, none, some x => s.sendBound r x b c pitch cs sig
  | _, _, _ =>
    let s := if b.space = 0 then s.noteWritten c b else if b.space = 1 then s.noteWritten b.peer b else s
    local_ (s.spaceWrite c b.space b.peer cs)

end Sys2Proof.Machine
end

