-- ==== Sys2Proof/Machine/LinkOps.lean ====
section
/-!
DEFINITION. A port's receive side, retry, retraining, degradation and training (R270 to R290), as shared operations.
-/
namespace Sys2Proof.Machine

/-! ## Going down and degrading -/

/-- Waiting flits are discarded; one that was the last of its message counts as absorbed (R344). -/
def State.dropFlits (s : State) (p : Port) (fs : List Queued) : State :=
  fs.foldl (fun s f => (s.unrouted p f.flit.1).freeBuf f.src f.pool) s

/-- Which side of a pair keeps VALID when the pair becomes STALE: in MIRROR the ACTIVE side (R353, log 31). -/
def State.validSide (s : State) : Bool := if s.twin.mode = 0 then s.twin.role == 1 else s.twin.valid

/-- PT is lost: a pause where the twin announced hold, else the pair becomes STALE (R281, R369, R381). -/
def State.ptLost (s : State) : State :=
  if s.twin.st = 0 || s.twin.paused || s.twin.st = 2 then s else s.stale 4 s.validSide

/-- A port goes down (R281): its retry buffer and its queue are discarded, and the last flits of messages among them count as
absorbed (R344, log 124); the knell while a step runs. -/
def State.portDown (s : State) (p : Port) : State :=
  let x := s.port p
  let s := s.logEvent 2 (Port.idx p) 0x53 0 0
  let s := s.setPort p { x with st := .down, retry := [], waitq := [], train := none }
  let s := x.retry.foldl (fun s f => s.absorb f.1) (s.dropFlits p x.waitq)
  let s := if p = .pt then s.ptLost else s
  if s.running then s.raiseKnell 0x04 0x53 2 (Port.idx p) else s

/-- Begin a retrain (R279); both retry buffers are kept. -/
def State.retrain (s : State) (p : Port) (cause : Nat) : State :=
  let s := (s.logEvent 2 (Port.idx p) 0x51 cause 0).count 1 (16 * Port.idx p + 4) 1
  s.updPort p (fun x => { x with train := some s.now })

/-- Does the port carry traffic on the lane. -/
def PortS.serves (x : PortS) (lane : Nat) : Bool := match x.st with
  | .full => true
  | .degraded u => u == decide (4 ≤ lane)
  | _ => false

/-- A lane has failed (R280): the port degrades to the half that does not hold it and retrains that half; a lane of the
surviving half takes the port down (R281). -/
def State.laneFail (s : State) (p : Port) (lane : Nat) : State :=
  match (s.port p).st with
  | .full =>
    let s := s.logEvent 2 (Port.idx p) 0x52 lane 0
    s.updPort p (fun x => { x with st := .degraded (decide (lane < 4)), train := some s.now })
  | .degraded _ => if (s.port p).serves lane then s.portDown p else s
  | _ => s

/-! ## Receiving -/

/-- Drop the flits of the retry buffer up to the one that an ACK names (R278). -/
def ackUpTo (ack : Nat) (l : List Flit) : List Flit :=
  if l.any (fun f => hdrSeq f.1 == ack) then (l.dropWhile (fun f => hdrSeq f.1 != ack)).drop 1 else l

/-- Mirror writes whose last flit has left the retry buffer of PT are acknowledged (R357, log 43). -/
def State.mirrorAcked (s : State) (p : Port) : State :=
  if p ≠ .pt then s
  else
    let x := s.port p
    let open_ := ((x.retry ++ x.waitq.map Queued.flit).filter (fun f => hdrVc f.1 == 3 && hdrLast f.1)).length
    { s with twin := { s.twin with mirror := s.twin.mirror.drop (s.twin.mirror.length - open_) } }

/-- Take a good flit's ACK and credits (R276, R278). -/
def State.noteAck (s : State) (p : Port) (h : Nat) : State :=
  let x := s.port p
  let r := ackUpTo (hdrAck h) x.retry
  let adv := decide (r.length < x.retry.length)
  let x := x.refill p (fld h 7 5) (fld h 4 0)
  let x := { x with retry := r, ackAt := if adv then s.now else x.ackAt, resends := if adv then 0 else x.resends }
  (s.setPort p x).mirrorAcked p

/-- Send what waits on a port and may go. -/
def State.pumpAll (s : State) (p : Port) : State := State.pump ((s.port p).waitq.length + 1) s p

/-- Take a good flit's ACK and credits, and send what they let go. -/
def State.takeAck (s : State) (p : Port) (h : Nat) : State := (s.noteAck p h).pumpAll p

/-- With no flit to send a port sends IDLE flits (R273): one is listed for each DATA flit taken, with its ACK and with credits
that it returns (log 46). -/
def State.idleOut (s : State) (p : Port) : State :=
  let x := s.port p
  if x.trained && x.train.isNone && x.pick.isNone then s.sendIdle p else s

/-- The lane that carried byte i of a flit: of a degraded port, one of its surviving half (R270, R280, log 98). -/
def PortS.laneOf (x : PortS) (i : Nat) : Nat := match x.st with
  | .degraded u => i % 4 + (if u then 4 else 0)
  | _ => i % 8

/-- Symbols corrected on a flit, by lane (R280, R290); each lane that passes 4,096 in a beat has failed. -/
def State.noteFixes (s : State) (p : Port) (at_ : List Nat) : State :=
  let x := s.port p
  let per := (List.range 8).map (fun l => (at_.filter (fun i => x.laneOf i == l)).length)
  let s := (List.range 8).foldl (fun s l => s.count 1 (16 * Port.idx p + 8 + l) (per.getD l 0)) s
  let old := (s.port p).corr
  let new := (List.range 8).map (fun l => old.getD l 0 + per.getD l 0)
  let s := s.updPort p (fun x => { x with corr := new })
  ((List.range 8).filter (fun l => decide (old.getD l 0 ≤ 4096) && decide (4096 < new.getD l 0))).foldl
    (fun s l => s.laneFail p l) s

/-- Send one NAK whose ACK names the last good flit, with credits to return (R272, R273), and discard until the expected flit
comes (R278). -/
def State.sendNak (s : State) (p : Port) : State :=
  if (s.port p).resync then s
  else
    let s := s.forceIdle p
    let (cp, cn, x) := (s.port p).credit
    ((s.setPort p { x with resync := true }).putFlit p (nakHdr x.rxSeq cp cn, [])).count 1 (16 * Port.idx p + 3) 1

/-- The virtual channels a port carries (Table 11.4). -/
def carries (p : Port) (vc : Nat) : Bool := if p = .pt then vc == 0 || vc == 3 else decide (vc ≤ 2)

/-- A good DATA flit in order: discard, deliver or forward it (R274, R282, R284, R321). Delivery hands it to its
consumer, whose row carries the whole message (log 29). -/
def State.acceptFlit (s : State) (p : Port) (h : Nat) (pay : List Byte) : State :=
  let done := s.freeBuf (some p) (hdrPool h)
  if !carries p (hdrVc h) then (done.absorb h).logEvent 2 (Port.idx p) 0x58 (hdrVc h) 0
  else if p = .pt || (hdrPlan h && s.torus.isSome) then done
  else match s.torus with
    | none => done.unrouted p h
    | some t => match t.route (hdrDst h) with
      | .deliver => done
      | .outside => done.unrouted p h
      | .via _ => s.routeFlit (some p) (h, pay)

/-- Receive a DATA flit: 288 raw bytes (R271, R278). -/
def State.dataFlit (s : State) (p : Port) (raw : List Byte) : State :=
  let x := s.port p
  if !x.trained || x.train.isSome then s
  else match flitDecode raw with
    | none => s.sendNak p
    | some (fx, at_) =>
      let h := leNat (fx.take 8)
      let s := s.noteFixes p at_
      if hdrType h ≠ 1 then s
      else if hdrSeq h ≠ (x.rxSeq + 1) % 4096 then s.sendNak p
      else
        let s := s.updPort p (fun x => { x with rxSeq := hdrSeq h, resync := false })
        let s := (s.count 1 (16 * Port.idx p + 2) 1).takeAck p h
        (s.acceptFlit p h ((fx.drop 8).take (hdrLen h))).idleOut p

/-- Receive an IDLE flit: credits, ACK, beat bits (R239, R273). -/
def State.idleFlit (s : State) (p : Port) (raw : List Byte) : State :=
  let x := s.port p
  if !x.trained || x.train.isSome then s
  else match flitDecode raw with
    | none => s
    | some (fx, at_) =>
      let h := leNat (fx.take 8)
      let s := s.noteFixes p at_
      if hdrType h ≠ 0 then s
      else
        let b := fld h 30 15
        let s := if b ≠ s.beatNo % 65536 then s.count 1 (16 * Port.idx p + 5) 1 else s
        (s.updPort p (fun x => { x with beat16 := some b })).takeAck p h

/-- Resend the retry buffer in order, with the present ACK; resent flits spend no credits (R278). -/
def State.resendAll (s : State) (p : Port) : State :=
  let x := s.port p
  x.retry.foldl (fun s f =>
    let s := s.forceIdle p
    (s.updPort p (fun y => { y with sinceIdle := y.sinceIdle + 1 })).putFlit p (setFld f.1 42 31 x.rxSeq, f.2)) s

/-- Receive a NAK: resend all after its ACK; the same SEQ resent 8 times in a row starts a retrain (R278, R279). -/
def State.nakFlit (s : State) (p : Port) (raw : List Byte) : State :=
  let x := s.port p
  if !x.trained || x.train.isSome then s
  else match flitDecode raw with
    | none => s
    | some (fx, at_) =>
      let h := leNat (fx.take 8)
      let s := s.noteFixes p at_
      if hdrType h ≠ 2 then s
      else
        let s := s.noteAck p h
        match (s.port p).retry.head? with
        | none => s.pumpAll p
        | some f =>
          let x := s.port p
          let n := if x.resends ≠ 0 && x.resendSeq = hdrSeq f.1 then x.resends + 1 else 1
          let s := (s.setPort p { x with resendSeq := hdrSeq f.1, resends := n, epochRetries := x.epochRetries + 1 }).count 1
            (16 * Port.idx p + 6) 1
          let s := s.resendAll p
          if 8 ≤ n then s.retrain p 1 else s.pumpAll p

/-! ## Training -/

/-- Is the port enabled in the image (R269). -/
def State.portEnabled (s : State) (p : Port) : Bool := hasBit (s.field 0x0110) (Port.idx p)

/-- What an attempt at training logs when it fails (R288). -/
def State.trainFault (s : State) (p : Port) (r : PortTrain) : State := match r with
  | .miswired => s.logEvent 2 (Port.idx p) 0x54 0 0
  | .laneMap => s.logEvent 2 (Port.idx p) 0x55 0 0
  | _ => s

/-- Full training of one port (R287, R288) through at most `n` more attempts, whose outcomes are given in order (one not given
fails): SEQ 0 and full credits when an attempt passes, down when none does. -/
def State.trainTry (s : State) (p : Port) : Nat → List PortTrain → State
  | 0, _ | _ + 1, [] => (s.setPort p (portInit (Port.idx p))).logEvent 2 (Port.idx p) 0x53 0 0
  | n + 1, r :: rs =>
    let i := Port.idx p
    let fresh := portInit i
    match r with
    | .full => (s.setPort p { fresh with st := .full, ackAt := s.now }).logEvent 2 i 0x50 8 0
    | .degraded u lane =>
      ((s.setPort p { fresh with st := .degraded u, ackAt := s.now }).logEvent 2 i 0x50 4 0).logEvent 2 i 0x52 lane 0
    | r => (s.trainFault p r).trainTry p n rs

/-- Train one port: up to 3 attempts of the whole sequence (R287); a disabled port is off (R269). -/
def State.trainPort (s : State) (p : Port) (rs : List PortTrain) : State :=
  if !s.portEnabled p then s.setPort p { portInit (Port.idx p) with st := .disabled } else s.trainTry p 3 rs

/-- The attempts at one port among those of a training. -/
def attemptsOf (rs : List (Port × PortTrain)) (p : Port) : List PortTrain := (rs.filter (fun e => e.1 == p)).map Prod.snd

/-- Train every port. -/
def State.trainPorts (s : State) (rs : List (Port × PortTrain)) : State :=
  allPorts.foldl (fun s p => s.trainPort p (attemptsOf rs p)) s

/-- The bump region that a mounting profile selects (Table 0.1, R3). -/
def mountRegion (mount : Nat) : UcieRegion := if mount = 2 then .standard else .advanced

/-- Lanes per module of a region (Table 0.1). -/
def UcieRegion.lanes : UcieRegion → Nat
  | .advanced => 64
  | .standard => 16

/-- The HIF turns to the region that the mounting profile selects, and powers the other one down (R3, R494, log 127). -/
def State.selectRegion (s : State) : State :=
  let r := mountRegion (s.field 0x0100)
  { s with hif := { s.hif with region := r, advOn := r == .advanced, stdOn := r == .standard } }

/-- Bytes per ns and direction of the trained link (R399). -/
def Hif.bytesPerNs (h : Hif) : Nat := h.modules * h.region.lanes * h.rate / 8

/-- UCIe trains on the region that the profile selects, on no more modules and at no higher rate than the image gives; below
them, none among them, it is degraded (R399, R4, log 83). -/
def State.trainHif (s : State) (modules rate : Nat) : State :=
  let m := min modules (s.field 0x0102)
  let g := if m = 0 then 0 else min rate (s.field 0x0103)
  let s := s.selectRegion
  let s := { s with hif := { s.hif with up := m != 0, modules := m, rate := g, rev := if m = 0 then 0 else s.field 0x0101 } }
  if decide (m < s.field 0x0102) || decide (g < s.field 0x0103) then s.logCp 0xD9 (place m 8 + g) 0 else s

end Sys2Proof.Machine
end

