-- ==== Sys2Proof/Machine/Shake.lean ====
section
/-!
DEFINITION. SHAKE256 (FIPS 202), which the manual uses for every digest (R296, R361, R455, R473, R486). The 1,600-bit state is
five planes of five lanes, a lane being the number its 64 bits spell; the rotations and the round constants are computed as
FIPS 202 defines them, by its walk over the lanes and by its shift register.
-/
namespace Sys2Proof.Machine

/-- The lanes (x, y) of one y, by x. -/
abbrev ShakePlane := List Nat

def rotl64 (lane n : Nat) : Nat :=
  let hi := lane >>> (64 - n % 64)
  (lane <<< (n % 64)) % 2 ^ 64 ||| hi

def laneAt (st : List ShakePlane) (x y : Nat) : Nat := (st.getD y []).getD x 0

def xorPlane (p q : ShakePlane) : ShakePlane := List.zipWith Nat.xor p q

/-- A plane whose lane x is what stood at x + k. -/
def turned (k : Nat) (p : ShakePlane) : ShakePlane := p.drop k ++ p.take k

/-- Step theta: every column takes in the parities of its two neighbours, the right one a bit later. -/
def shakeTheta (st : List ShakePlane) : List ShakePlane :=
  let parity := st.foldl xorPlane (List.replicate 5 0)
  st.map (xorPlane (xorPlane (turned 4 parity) ((turned 1 parity).map (rotl64 · 1))))

/-- The walk of step rho from lane (1, 0): the t-th lane (t from 1) turns by t(t+1)/2 bits, and lane (y, 2x + 3y) follows lane
(x, y). -/
def rhoWalk : Nat → Nat → Nat → Nat → List ((Nat × Nat) × Nat)
  | 0, _, _, _ => []
  | n + 1, t, x, y => ((x, y), t * (t + 1) / 2) :: rhoWalk n (t + 1) y ((2 * x + 3 * y) % 5)

/-- The rotation of a lane; lane (0, 0) is off the walk and stays. -/
def rhoOf (walk : List ((Nat × Nat) × Nat)) (x y : Nat) : Nat := (walk.lookup (x, y)).getD 0

/-- Steps rho and pi: lane (x, y) is what stood at ((x + 3y) mod 5, x), rotated. -/
def shakeRhoPi (walk : List ((Nat × Nat) × Nat)) (st : List ShakePlane) : List ShakePlane :=
  (List.range 5).map (fun y => (List.range 5).map (fun x =>
    let src := (x + 3 * y) % 5
    rotl64 (laneAt st src x) (rhoOf walk src x)))

/-- Step chi within one plane: a bit flips where the next one is 0 and the one after it is 1. -/
def shakeChi (p : ShakePlane) : ShakePlane :=
  xorPlane p (List.zipWith (fun next after => after ^^^ (next &&& after)) (turned 1 p) (turned 2 p))

/-- One shift of the register that makes the round constants: x^8 + x^6 + x^5 + x^4 + 1. -/
def rcShift (r : Nat) : Nat := if 128 ≤ r then (2 * r) ^^^ 0x171 else 2 * r

/-- Bits 0, 1, 3, 7, 15, 31 and 63 of a round constant are seven successive outputs of the register. -/
def rcLane : Nat → Nat → Nat → Nat × Nat
  | 0, _, r => (0, r)
  | n + 1, j, r =>
    let (rest, r') := rcLane n (j + 1) (rcShift r)
    (place (r % 2) (2 ^ j - 1) + rest, r')

/-- Step iota. -/
def shakeIota (c : Nat) : List ShakePlane → List ShakePlane
  | (a :: p) :: ps => ((a ^^^ c) :: p) :: ps
  | st => st

/-- `n` rounds, the register at `r`. -/
def shakeRounds (walk : List ((Nat × Nat) × Nat)) : Nat → Nat → List ShakePlane → List ShakePlane
  | 0, _, st => st
  | n + 1, r, st =>
    let (c, r') := rcLane 7 0 r
    shakeRounds walk n r' (shakeIota c ((shakeRhoPi walk (shakeTheta st)).map shakeChi))

/-- The permutation: 24 rounds. -/
def shakePermute (st : List ShakePlane) : List ShakePlane := shakeRounds (rhoWalk 24 1 1 0) 24 1 st

/-- Bytes taken in before each permutation: 1,600 bits less twice 256. -/
def shakeRate : Nat := 136

/-- Take in a message that the padding (a byte 0x1F, zeros, the last bit set) has brought to `n` full blocks. -/
def shakeSponge : Nat → List Byte → List ShakePlane → List ShakePlane
  | 0, _, st => st
  | n + 1, msg, st =>
    let block := words64 (msg.take shakeRate) ++ List.replicate 8 0
    shakeSponge n (msg.drop shakeRate) (shakePermute (List.zipWith xorPlane st (chunksOf 5 5 block)))

/-- The first `n` bytes of SHAKE256 of a message, `n` at most one block. -/
def shake256 (n : Nat) (m : List Byte) : List Byte :=
  let blocks := m.length / shakeRate + 1
  let tail : List Nat := 0x1F :: List.replicate (shakeRate * blocks - m.length - 1) 0
  let last := tail.length - 1
  let padded := m ++ (tail.mapIdx (fun i b => if i = last then b ||| 0x80 else b)).map (BitVec.ofNat 8)
  (bytes64 (shakeSponge blocks padded (List.replicate 5 (List.replicate 5 0))).flatten).take n

end Sys2Proof.Machine
end

