-- ==== Sys2Proof/Machine/ImageOps.lean ====
section
/-!
DEFINITION. The image store: banks, image format, resolution, journal and owner key (R444 to R463, R470 to R472).
-/
namespace Sys2Proof.Machine

def bankBytes : Nat := 2 * 2 ^ 20

/-- Bytes of an SLH-DSA-SHAKE-256s signature (Table 20.1). -/
def sigBytes : Nat := 29792

/-! ## Bank F (R445, R469): what the manual leaves to the part is opaque (log 10) -/

/-- The header of the factory image (Table 19.2); its count of fields is the part's. -/
def bankFHeader : List Byte :=
  bytes64 [place 0x0F241A6E 32 + place 1 16 + leNat [Config.bankF 0, Config.bankF 1],
    place (Config.bankFLen - sigBytes) 32 + sigBytes, 0, 0, 0, 0, 0, 0]

/-- The identity public key, HC4 to HC11 of the certificate. -/
def idKey : List Byte := (List.range 64).map (fun i => Config.bankF (Config.bankFLen + 32 + i))

/-- The body of the identity certificate (Table 20.2). -/
def certBody : List Byte :=
  bytes64 [place 0x0F24CE47 32 + place 1 16, place 128 32 + sigBytes,
    leNat ((List.range 8).map (fun i => Config.bankF (Config.bankFLen + 16 + i))), place 0xF024 48 + place 0xA0 40] ++
  idKey ++ shake256 16 Config.caKey ++ List.replicate 16 0

/-- The identity certificate: its body and the CA key's signature, 29,920 bytes (R469). -/
def idCert : List Byte := certBody ++ (List.range sigBytes).map (fun i => Config.bankF (Config.bankFLen + 128 + i))

/-- Byte i of bank F; the certificate follows the factory image. -/
def bankFByte (i : Nat) : Byte :=
  if i < 64 then bankFHeader.getD i 0
  else if Config.bankFLen ≤ i && i < Config.bankFLen + 128 then certBody.getD (i - Config.bankFLen) 0
  else Config.bankF i

/-- Bytes of a bank: 0 F, 1 U0, 2 U1. -/
def State.bankN (s : State) (b a n : Nat) : List Byte :=
  match b with
  | 0 => (List.range n).map (fun i => bankFByte (a + i))
  | 1 => s.img.u0.readN a n
  | _ => s.img.u1.readN a n

def State.bankMem (s : State) (b : Nat) : Mem := if b = 1 then s.img.u0 else s.img.u1
def State.setBank (s : State) (b : Nat) (m : Mem) : State :=
  if b = 1 then { s with img := { s.img with u0 := m } } else { s with img := { s.img with u1 := m } }

/-! ## Image format (R445, R446) -/

structure ImgHdr where
  magic : Nat
  version : Nat
  nfield : Nat
  bodylen : Nat
  siglen : Nat
  kind : Nat
  rsv : Nat
  deriving DecidableEq, Repr

def imgHdr (m : Mem) : ImgHdr :=
  let q (i : Nat) : Nat := m.readLe (8 * i) 8
  ⟨fld (q 0) 63 32, fld (q 0) 31 16, fld (q 0) 15 0, fld (q 1) 63 32, fld (q 1) 31 0, fld (q 2) 1 0,
   fld (q 2) 63 2 + q 3 + q 4 + q 5 + q 6 + q 7⟩

/-- A field entry: key, length, offset of the value. -/
structure ImgEntry where
  key : Nat
  len : Nat
  off : Nat
  deriving DecidableEq, Repr

/-- The entries from byte `a` on, and where they end. -/
def imgEntries (m : Mem) : Nat → Nat → List ImgEntry × Nat
  | 0, a => ([], a)
  | n + 1, a =>
    let w := m.readLe a 4
    let e : ImgEntry := ⟨fld w 15 0, fld w 31 16, a + 4⟩
    let (es, z) := imgEntries m n (a + roundUp (4 + e.len) 8)
    (e :: es, z)

def entriesOf (m : Mem) : List ImgEntry :=
  (imgEntries m (min 4096 (imgHdr m).nfield) 64).1

/-- The header of a user image (R445, R447). -/
def imgHdrOk (h : ImgHdr) : Bool :=
  h.magic == 0x0F241A6E && h.version == 1 && h.kind == 1 && h.rsv == 0 && decide (h.nfield ≤ 4096) &&
  (h.siglen == 0 || h.siglen == 29792) && decide (h.bodylen + h.siglen ≤ bankBytes)

/-- Structure of a user image (R447). -/
def imgOk (m : Mem) : Bool :=
  let h := imgHdr m
  let (es, z) := imgEntries m (min 4096 h.nfield) 64
  imgHdrOk h && z == h.bodylen && (es.map ImgEntry.key).Nodup

def imgSize (m : Mem) : Nat := (imgHdr m).bodylen + (imgHdr m).siglen

/-- First 16 bytes of SHAKE256 over a bank's image (R455). -/
def imgDigest (n : Nat) (m : Mem) : List Byte := shake256 n (m.readN 0 (imgSize m))

/-- The value bytes of a field. -/
def imgField (m : Mem) (key : Nat) : Option (List Byte) :=
  ((entriesOf m).find? (fun e => e.key == key)).map (fun e => m.readN e.off e.len)

/-- The integer fields of Table 19.3. -/
def intKeys : List Nat :=
  [0x0010, 0x0011, 0x0012, 0x0013, 0x0020, 0x0021, 0x0022, 0x0023, 0x0030, 0x0031, 0x0032, 0x0040, 0x0041, 0x0042,
   0x0050, 0x0051, 0x0052, 0x0053, 0x0100, 0x0101, 0x0102, 0x0103, 0x0110, 0x0111, 0x0112, 0x0113, 0x0114, 0x0115,
   0x0116, 0x0117, 0x0120, 0x0130, 0x0131, 0x0140, 0x0141, 0x0150, 0x0160, 0x0171]

/-- A lane map word: L0 to L7 are a permutation of 0 to 7 (R269). -/
def laneMapOk (v : Nat) : Bool :=
  (List.range 8).all (fun x => (List.range 8).any (fun i => fld v (3 * i + 2) (3 * i) == x)) && decide (v < 2 ^ 32)

/-- Ranges of Table 19.3 (and of Table 18.8, whose keys they share). -/
def fieldOk (key v : Nat) : Bool :=
  let r (a b : Nat) : Bool := decide (a ≤ v) && decide (v ≤ b)
  match key with
  | 0x0010 => r 1 200 | 0x0011 => r 0 95 | 0x0012 => r 250 450 | 0x0013 => r 200 620
  | 0x0020 | 0x0021 | 0x0022 | 0x0023 => r 1000 10000000
  | 0x0030 => r 1 20480 | 0x0031 => r 1 1000 | 0x0032 => r 1 1000 | 0x0040 => r 16 65536 | 0x0041 => r 1 255
  | 0x0042 => r 1 100 | 0x0050 => r 0 1 | 0x0051 => r 0 63 | 0x0052 => r 1 168 | 0x0053 => r 1 255
  | 0x0100 => r 0 2 | 0x0101 => v == 0x11 || v == 0x20 | 0x0102 => r 1 4
  | 0x0103 => [4, 8, 12, 16, 24, 32].contains v | 0x0110 => r 0 127
  | 0x0111 | 0x0112 | 0x0113 | 0x0114 | 0x0115 | 0x0116 | 0x0117 => laneMapOk v
  | 0x0120 => r 25 1000 | 0x0130 => r 0 1 | 0x0131 => r 0 1 | 0x0140 => r 80 100 | 0x0141 => r 75 90
  | 0x0150 => r 0 3 | 0x0160 => r 0 1 | 0x0171 => r 0 1 | _ => false

/-- The value of an integer field in a bank: none when absent; `none` inside when invalid (R446, R448). -/
def intField (m : Mem) (key : Nat) : Option (Option Nat) :=
  (imgField m key).map (fun bs =>
    if (bs.length = 4 || bs.length = 8) && fieldOk key (leNat bs) then some (leNat bs) else none)

/-- OWNER_KEY of a bank: 64 bytes, not all zero (R470). -/
def ownerKeyOf (m : Mem) : Option (List Byte) :=
  match imgField m 0x0170 with
  | some bs => if bs.length = 64 && bs.any (· != 0#8) then some bs else none
  | none => none

/-- Owner key and policy that a bank (0: factory only) sets (R470): the policy counts as 1 without a key. -/
def State.bankOwner (s : State) (b : Nat) : Option (List Byte) × Bool :=
  if b = 0 then (none, true)
  else
    let m := s.bankMem b
    let k := ownerKeyOf m
    let p := match intField m 0x0171 with | some (some v) => v == 1 | _ => true
    (k, k.isNone || p)

def keyMeasure (k : Option (List Byte)) : List Byte :=
  match k with | some b => shake256 32 b | none => List.replicate 32 0#8

/-- Put a bank's owner key and policy in force, logging a change (R453, R475). -/
def State.setOwner (s : State) (b : Nat) : State :=
  let (k, p) := s.bankOwner b
  let changed := k != s.sec.ownerKey || p != s.sec.unsignedOk
  let s := { s with sec := { s.sec with ownerKey := k, unsignedOk := p } }
  if changed then s.logCp 0xB1 0 (leNat ((keyMeasure k).take 8)) else s

/-! ## The journal (R455, R460, R462) -/

/-- The current commit record: VALID, PREV, COUNT and the digests. -/
def State.commitRec (s : State) : Option (Nat × Nat × Nat × List Byte × List Byte) :=
  s.img.journal.foldl (fun a r => match r with
    | .commit _ v p c vd pd => some (v, p, c, vd, pd)
    | _ => a) none

def State.validBank (s : State) : Nat := match s.commitRec with | some r => r.1 | none => 0
def State.prevBank (s : State) : Nat := match s.commitRec with | some r => r.2.1 | none => 0
def State.commitCount (s : State) : Nat := match s.commitRec with | some r => r.2.2.1 | none => 0

/-- The staging bank (R431). -/
def State.staging (s : State) : Nat :=
  if s.validBank ≠ 0 then 3 - s.validBank
  else if s.prevBank ≠ 0 then 3 - s.prevBank
  else 1

/-- Does a later record of the same kind supersede this one (R460, R461). -/
def sameKind : JRec → JRec → Bool
  | .commit .., .commit .. => true
  | .pairing .., .pairing .. => true
  | .resync _ a .., .resync _ b .. => a == b
  | .trip .., .trip .. => true
  | _, _ => false

def JRec.no : JRec → Nat
  | .commit n .. | .pairing n .. | .resync n .. | .trip n .. => n

/-- Slots of the log (Table 19.6). -/
def logSlots : Nat := 8192

/-- Does a slot hold a live record. -/
def State.slotLive (s : State) (k : Nat) : Bool := s.img.journal.any (fun r => Table.find s.img.slots r.no == some k)

/-- Live records in the slots from `k` on without a gap. -/
def State.liveRun (s : State) : Nat → Nat → Nat
  | 0, _ => 0
  | f + 1, k => if s.slotLive k then s.liveRun f ((k + 1) % logSlots) + 1 else 0

/-- The live records from the slot to be written on are copied forward, each by one slot, and the slot is given out (R460, log
113): how many records were copied, and the state. -/
def State.giveSlot (s : State) : Nat × State :=
  let h := s.img.head
  let n := s.liveRun 9 h
  let slots := s.img.slots.map (fun e => if (e.2 + logSlots - h) % logSlots < n then (e.1, (e.2 + 1) % logSlots) else e)
  (n, { s with img := { s.img with slots := slots, head := (h + n + 1) % logSlots } })

/-- At most one record in any 5 ms: the clock at the next one, and its time noted (R462). -/
def State.recordTime (s : State) : State :=
  let t := match s.img.lastWrite with | some x => max s.now (x + 5000000) | none => s.now
  { s with now := t, img := { s.img with lastWrite := some t } }

/-- The clock after `n` records more. -/
def State.recordTimes : Nat → State → State
  | 0, s => s
  | n + 1, s => State.recordTimes n s.recordTime

/-- A record is written to the next slot, once what lives there is copied and the limit allows each of them (R460, R462). -/
def State.takeSlot (s : State) : State :=
  let (n, s) := s.giveSlot
  State.recordTimes (n + 1) s

/-- Enter a record that stands in slot `k`; what it supersedes is live no longer. -/
def State.enterRec (s : State) (r : JRec) (k : Nat) : State :=
  let live := s.img.journal.filter (fun x => !sameKind x r) ++ [r]
  let slots := (Table.put s.img.slots r.no k).filter (fun e => live.any (fun x => x.no == e.1))
  { s with img := { s.img with journal := live, rseq := s.img.rseq + 1, slots := slots } }

/-- Write a record at once, whatever the limit: the THERMTRIP record alone (R462). -/
def State.putRec (s : State) (r : JRec) : State := s.giveSlot.2.enterRec r s.img.head

/-- Write a record; one that falls due sooner than 5 ms after the last waits (R462). -/
def State.writeRec (s : State) (r : JRec) : State := s.takeSlot.enterRec r s.img.head

/-- Write a commit record (R456, R457). -/
def State.writeCommit (s : State) (valid prev : Nat) : State :=
  let n := s.img.rseq + 1
  let dg (b : Nat) : List Byte := if b = 0 then List.replicate 16 0#8 else imgDigest 16 (s.bankMem b)
  let s := s.writeRec (.commit n valid prev (s.commitCount + 1) (dg valid) (dg prev))
  s.logCp 0xA2 (place valid 8 + prev) n

/-! ## The resolved image (R454) -/

/-- One field entry as bytes. -/
def entryBytes (key : Nat) (v : List Byte) : List Byte :=
  let b := natLe 4 (place v.length 16 + key) ++ v
  b ++ List.replicate (roundUp b.length 8 - b.length) 0#8

def imgBytes (kind : Nat) (es : List (Nat × List Byte)) : List Byte :=
  let body := es.flatMap (fun e => entryBytes e.1 e.2)
  bytes64 [place 0x0F241A6E 32 + place 1 16 + es.length, place (64 + body.length) 32, kind, 0, 0, 0, 0, 0] ++ body

/-- The resolved image: every field of Table 19.3 in ascending key order, as in force at start-up; integer fields
have LEN 4, and an absent owner key reads as 64 zero bytes (log 32). -/
def State.resolved (s : State) : List Byte :=
  let int (k : Nat) : Nat × List Byte := (k, natLe 4 (s.field k))
  let low := (intKeys.filter (fun k => decide (k ≤ 0x0160))).map int
  imgBytes 2 (low ++ [(0x0161, s.img.libDigest), (0x0170, s.img.startKey.getD (List.replicate 64 0#8)), int 0x0171])

end Sys2Proof.Machine
end

