-- ==== Sys2Proof/Machine/RudOps.lean ====
section
/-!
DEFINITION. Signatures and who may sign what (R464, Table 20.3), and rudiment packages (R143 to R145, R452).
-/
namespace Sys2Proof.Machine

/-- The ASCII bytes of a context string (Table 20.1). -/
def ascii (t : String) : List Byte := t.toList.map (fun c => BitVec.ofNat 8 c.toNat)

/-- A user image's signature at IMAGE_COMMIT (Table 20.3, R471): is the bank accepted, and was a signature refused. -/
def State.imageAccepted (s : State) (m : Mem) : Bool × Bool :=
  let h := imgHdr m
  let body := m.readN 0 h.bodylen
  let sg := m.readN h.bodylen h.siglen
  if h.siglen = 0 then (s.sec.unsignedOk || s.img.auth == some (imgDigest 32 m), false)
  else match s.sec.ownerKey with
    | none => (false, true)
    | some k =>
      let ok := Config.slhVerify k (ascii "FOPRA-IMAGE") body sg
      (ok, !ok)

/-- The parts of a package (R143). -/
structure RudPkg where
  dir : List RudDir
  steps : List Nat
  table : List Nat
  body : List Byte
  sg : List Byte
  rsv : Nat
  deriving DecidableEq, Repr

def rudPkgOf (bs : List Byte) : Option RudPkg :=
  match Config.rudLayout bs with
  | none => none
  | some l =>
    let q (i : Nat) : Nat := leNat ((bs.drop (l.dirOff + 8 * i)).take 8)
    let ent (i : Nat) : RudDir :=
      ⟨fld (q (2 * i)) 7 0, fld (q (2 * i)) 21 12, fld (q (2 * i)) 42 32, fld (q (2 * i + 1)) 11 0, fld (q (2 * i + 1)) 44 32⟩
    let rsv (i : Nat) : Nat := fld (q (2 * i)) 63 43 + fld (q (2 * i)) 31 22 + fld (q (2 * i)) 11 8 +
      fld (q (2 * i + 1)) 63 45 + fld (q (2 * i + 1)) 31 12
    if l.dirs < 1 || 32 < l.dirs || 1024 < l.steps || 4096 < l.tabs || bs.length < l.body ||
        (l.isSigned && bs.length != l.body + sigBytes) || (!l.isSigned && bs.length != l.body) then none
    else some ⟨(List.range l.dirs).map ent,
      (List.range l.steps).map (fun i => leNat ((bs.drop (l.stepOff + 8 * i)).take 8)),
      (List.range l.tabs).map (fun i => leNat ((bs.drop (l.tabOff + 4 * i)).take 4)),
      bs.take l.body, bs.drop l.body, ((List.range l.dirs).map rsv).foldl (· + ·) 0⟩

/-- No reserved field or code of a step word is other than 0 (Tables 5.6 and 5.7, R144). -/
def rudStepPlain (w : Nat) : Bool :=
  let mode := fld w 45 44
  fld w 43 33 == 0 &&
  (match fld w 63 58 with
   | 2 => mode != 3 && decide (fld w 3 0 ≤ 12) && fld w 31 28 == 0 && fld w 15 4 == 0
   | 3 => mode != 3
   | 4 => decide (mode < 2)
   | c => decide (c ≤ 8))

/-- A LOOKUP of a rudiment reads within its table range [base, base + len) (R144). -/
def rudLookupOk (base len w : Nat) : Bool :=
  let tb := fld w 27 16
  fld w 63 58 != 2 || (decide (base ≤ tb) && decide (tb + (fld w 45 44 + 1) * 2 ^ fld w 3 0 ≤ base + len))

/-- The checks of R144, of step words that no rudiment holds too; a rudiment's table range lies within the package's
entries (log 13). -/
def RudPkg.ok (p : RudPkg) : Bool :=
  p.rsv == 0 && (p.dir.map RudDir.id).Nodup && p.steps.all rudStepPlain &&
  p.dir.all (fun d =>
    let ws := (p.steps.drop d.first).take d.count
    d.id != 0 && decide (2 ≤ d.count) && decide (d.first + d.count ≤ 1024) && ws.length == d.count &&
    ws.getLast?.any (fun w => fld w 63 58 == 0) && (ws.dropLast).all (fun w => fld w 63 58 != 0) &&
    ws.all (rudLookupOk d.tbase d.tlen) && decide (d.tbase + d.tlen ≤ p.table.length) &&
    p.dir.all (fun e => e.id == d.id || decide (e.first + e.count ≤ d.first) || decide (d.first + d.count ≤ e.first)))

/-- Is a reserved field of the package not 0: a check of R415 that comes before those of RUDIMENT_LOAD (R9). -/
def rudRsv (bs : List Byte) : Bool :=
  (rudPkgOf bs).any (fun p => p.rsv != 0 || p.steps.any (fun w => fld w 43 33 != 0))

/-- Does the signature rule of Table 20.3 accept the package for this owner key and policy. -/
def RudPkg.accepted (p : RudPkg) (key : Option (List Byte)) (unsignedOk : Bool) : Bool :=
  if p.sg.isEmpty then unsignedOk
  else
    let good (k : List Byte) : Bool := Config.slhVerify k (ascii "FOPRA-RUDIMENT") p.body p.sg
    good Config.productKey || key.any good

def RudPkg.loaded (p : RudPkg) (bs : List Byte) : Rudiments := ⟨p.dir, p.steps, p.table, shake256 32 bs⟩

/-- Outcome of a package: its rudiments, or a status (R144, R145). -/
def rudLoad (bs : List Byte) (key : Option (List Byte)) (unsignedOk : Bool) : Except Nat Rudiments :=
  match rudPkgOf bs with
  | none => .error stBadArg
  | some p =>
    if !p.ok then .error stBadArg
    else if !p.accepted key unsignedOk then .error stAuthFail
    else .ok (p.loaded bs)

end Sys2Proof.Machine
end

