-- ==== Sys2Proof/Machine/ResetOps.lean ====
section
/-!
DEFINITION. What each kind of reset keeps (R476 to R482) and the work of the start-up phases (R448, R452, R458, R466,
R482 to R484), as shared operations.
-/
namespace Sys2Proof.Machine

/-- Start-up stops with a FAIL code (R484). -/
def State.stopStart (s : State) (code d1 : Nat) : State :=
  ({ s with cp := { s.cp with phase := 6, fail := code } }).logCp 0xC1 code d1

/-- Does every stack enter self-refresh in a reset that keeps DRAM (R478). -/
def State.keepsDram (s : State) (keep : Bool) : Bool := keep && (s.dram.trained || s.dram.selfRefKept)

/-- The epoch through a warm or watchdog reset (R480): RUNNING and DONE retire it, PREPARED keeps it. -/
def Epoch.kept (e : Epoch) : Epoch :=
  let base := { Epoch.init with next := e.next, lce := e.lce, ranMax := e.ranMax }
  match e.st with
  | .prepared => { base with st := .prepared, prep := e.prep, seqs := e.seqs, stepPolicy := e.stepPolicy }
  | .running | .done => { base with next := e.next + 1 }
  | .idle => base

/-- The pairing record holds ROLE, MODE and VALID as they stand at the reset (R356, log 33). -/
def State.savePairing (s : State) : List JRec :=
  s.img.journal.map (fun r => match r with
    | .pairing n _ _ _ => .pairing n s.twin.role s.twin.mode s.twin.valid
    | x => x)

/-- The state after a reset of a kind of Table 21.1; `keep` asks that DRAM be kept (R476 to R482). -/
def State.afterReset (s : State) (kind : Nat) (keep : Bool) : State :=
  let z := State.reset
  let kept := s.keepsDram keep
  let power := decide (kind = 0)
  let warm := decide (2 ≤ kind)
  let tripOpen := s.img.journal.any (fun r => match r with | .trip _ o => o | _ => false)
  let go := s.cp.pwrgd && !s.cp.rstLow && !(kind == 1)
  let d := { Dram.init with
    spareUsed := s.dram.spareUsed, lanesUsed := s.dram.lanesUsed, temps := s.dram.temps, selfRef := kept, selfRefKept := kept }
  let (k, p) := s.bankOwner s.validBank
  { z with
    pending := s.pending, now := s.now, free := s.free, out := s.out, host := s.host
    cp := { z.cp with
      kind := kind, tripPrev := power && tripOpen, dramKept := kept, wdog := if kind = 4 then s.cp.wdog + 1 else 0,
      rstLow := s.cp.rstLow || kind == 1, pwrgd := s.cp.pwrgd, startAt := s.now, phaseAt := s.now,
      tripped := s.cp.tripped && !power, stableAt := s.cp.stableAt, started := go }
    bar := { z.bar with scratch := if warm then s.bar.scratch else z.bar.scratch }
    i3c := if power then z.i3c else s.i3c
    tap := if power then z.tap else s.tap
    img := { z.img with
      u0 := s.img.u0, u1 := s.img.u1, journal := s.savePairing, rseq := s.img.rseq, head := s.img.head, slots := s.img.slots, spareMap := s.img.spareMap,
      laneMap := s.img.laneMap, retired := s.img.retired, lastWrite := s.img.lastWrite }
    sec := { z.sec with ownerKey := k, unsignedOk := p }
    kv := if kept then s.kv else z.kv
    ep := if warm then s.ep.kept else z.ep
    dram := if kept then { d with bytes := s.dram.bytes, poison := s.dram.poison, errs := s.dram.errs } else d
    beat := { z.beat with start := s.now, lastLong := s.now }
    sup := if power then z.sup else { z.sup with
      onBackup := s.sup.onBackup, backupFrom := s.sup.backupFrom, railsOut := s.sup.railsOut } }

/-- The retirement of R379 that a warm or watchdog reset in RUNNING or DONE brings, logged in the new event log (R480, log
33). -/
def State.logRetired (s : State) (kind : Nat) (before : Epoch) : State :=
  if 2 ≤ kind && (before.st == .running || before.st == .done) then s.logCp 0xD3 0 before.next else s

/-- Take a reset; the third successive watchdog reset stops start-up (R477). -/
def State.takeReset (s : State) (kind : Nat) (keep : Bool) : State :=
  let s := (s.afterReset kind keep).logRetired kind s.ep
  if kind = 4 && 3 ≤ s.cp.wdog then s.stopStart 5 0 else s

/-- Start-up begins once PWRGD_MAIN is asserted and RESET_N is deasserted (R483). -/
def State.beginStart (s : State) : State :=
  if s.cp.pwrgd && !s.cp.rstLow && !s.cp.started then
    { s with cp := { s.cp with started := true, startAt := s.now, phaseAt := s.now } }
  else s

/-- On to the next start-up phase. -/
def State.toPhase (s : State) (p : Nat) : State := { s with cp := { s.cp with phase := p, phaseAt := s.now } }

/-- Limit of a start-up phase in ns (Table 21.3). -/
def phaseLimitNs : Nat → Nat
  | 0 => 20000000 | 1 => 20000000 | 2 => 450000000 | _ => 100000000

/-! ## ROM_CHECK -/

/-- Log a trip recorded before this start and close its record (R395, R485). -/
def State.reportTrip (s : State) : State :=
  if s.cp.tripPrev then
    let s := s.logCp 0x97 0 0
    { s with img := { s.img with journal := s.img.journal.map (fun r => match r with
        | .trip n _ => .trip n false
        | x => x) } }
  else s

/-- Identity derivation: 0 derived, 1 correction failed, 2 key mismatch (R466, R468). -/
def State.takeIdentity (s : State) (code : Nat) : State :=
  let s := { s with sec := { s.sec with idOk := code == 0, keyHeld := code == 0 } }
  if code = 0 then s else s.logCp 0xB0 code 0

/-! ## The host link trained again -/

/-- One message for every chime bit set and unmasked, once the link has trained again (R400). -/
def State.announce (s : State) : State :=
  if s.hif.up then (setBits 64 s.bar.chimeStatus).foldl (fun s n => if s.suppressed n then s else s.emit (.msix n)) s else s

/-! ## IMAGE -/

/-- Bank F's signature against the product key (R458, R464). -/
def bankFOk : Bool :=
  let n := Config.bankFLen - sigBytes
  Config.slhVerify Config.productKey (ascii "FOPRA-IMAGE") ((List.range n).map bankFByte)
    ((List.range sigBytes).map (fun i => bankFByte (n + i)))

/-- The bank that start-up uses, and whether it is a fallback (R458). -/
def State.bankToUse (s : State) : Nat × Bool :=
  match s.commitRec with
  | none => (0, false)
  | some (v, p, _, vd, pd) =>
    if v = 0 then (0, false)
    else if imgDigest 16 (s.bankMem v) = vd then (v, false)
    else if p ≠ 0 && imgDigest 16 (s.bankMem p) = pd then (p, true)
    else (0, true)

/-- Resolve one entry of a user bank (R446, R448, R452). -/
def State.resolveEntry (s : State) (m : Mem) (e : ImgEntry) : State :=
  let v := m.readN e.off e.len
  if intKeys.contains e.key then
    match intField m e.key with
    | some (some x) => { s with img := { s.img with fields := Table.set none s.img.fields e.key (some x) } }
    | _ => s.logCp 0xA0 e.key 0
  else if e.key = 0x0161 then
    match rudLoad v s.sec.ownerKey s.sec.unsignedOk with
    | .ok r => { s with rud := r }
    | .error _ => s.logCp 0xA0 e.key 0
  else if e.key = 0x0170 then (if e.len = 64 then s else s.logCp 0xA0 e.key 0)
  else s.logCp 0xA0 e.key 0

/-- Restore the pairing of bank J (R356). -/
def State.restorePair (s : State) : State :=
  match s.img.journal.findSome? (fun r => match r with | .pairing _ role mode v => some (role, mode, v) | _ => none) with
  | none => s
  | some (role, mode, v) =>
    let s := { s with twin := { s.twin with st := 2, role := role, mode := mode, valid := v, cause := 5 } }
    s.logCp 0x81 5 s.twin.word

/-- Choose the bank, resolve every field, put the owner key in force, restore the pairing (R448 to R458). -/
def State.resolveImage (s : State) : State :=
  let (b, fb) := s.bankToUse
  let s := if fb then s.logCp 0xA1 b 0 else s
  let s := ({ s with img := { s.img with bank := b, fields := [] } }).setOwner b
  let s := if b = 0 then s else (entriesOf (s.bankMem b)).foldl (fun s e => s.resolveEntry (s.bankMem b) e) s
  let s := { s with img := { s.img with libDigest := s.rud.digest, startKey := s.sec.ownerKey } }
  s.restorePair

/-! ## DRAM_TRAIN -/

/-- Replace a bond lane of a channel by a spare; a third one degrades the channel, whose decoder from then on erases
the lane's pin group (R252, R255): eight lanes to a group, in order (log 99). -/
def State.spareLane (s : State) (chan lane : Nat) : State :=
  if Table.get 0 s.dram.degraded chan ≠ 0 then s
  else
    let st := chan / 32
    let used := Table.get 0 s.dram.lanesUsed chan
    if 2 ≤ used || s.spareMapFull then
      let s := if used < 2 then s.logCp 0xA3 0 0 else s
      let s := s.logEvent 3 st 0x47 (chan % 32) lane
      ({ s with dram := { s.dram with degraded := Table.set 0 s.dram.degraded chan (lane / 8 + 1) } }).eventChime
    else
      let s := { s with
        dram := { s.dram with lanesUsed := Table.set 0 s.dram.lanesUsed chan (used + 1) },
        img := { s.img with laneMap := s.img.laneMap ++ [(chan, lane, used)] } }
      (s.logEvent 3 st 0x46 (chan % 32) lane).count 2 (8 * st + 5) 1

/-! ## Sequence restoration (R482) -/

/-- A page record as restored: pins, EVPEND and copies are gone. -/
def Page.restored (p : Page) : Page :=
  let q := { p with pin := 0, evpend := false, forced := false, inflight := 0, prefetch := false }
  if p.st = 1 then { q with st := 0, frame := 0 } else if p.st = 3 then { q with st := 2 } else q

def Kv.restored (k : Kv) : Kv :=
  { k with
    lens := k.lens.map (fun e => (e.1, { e.2 with prov := 0 })),
    copyq := [], draining := [],
    recs := k.recs.map (fun e => (e.1, e.2.map Page.restored)) }

/-- Open sequences, ascending. -/
def State.openSeqs (s : State) : List Nat := s.kv.lens.filterMap (fun e => if e.2.isOpen then some e.1 else none)

/-- Restore every sequence from the CP area when DRAM was kept (R482). -/
def State.restoreSeqs (s : State) (areaOk : Bool) : State :=
  if !s.cp.dramKept then s
  else if areaOk then
    let s := { s with kv := s.kv.restored }
    s.logCp 0xC2 s.openSeqs.length 0
  else ({ s with kv := State.reset.kv }).logCp 0xC3 0 0

/-- RESET_CAUSE (Table 17.6). -/
def State.resetCause (s : State) : Nat := place (b2n s.cp.tripPrev) 10 + place (b2n s.cp.dramKept) 9 + s.cp.kind

/-- READY: every mailbox handed over meanwhile is taken in order (R416, R483). -/
def State.ready (s : State) : State :=
  let s := (s.toPhase 4).logCp 0xC0 s.resetCause ((s.now - s.cp.startAt) / 1000)
  let s := { s with cp := { s.cp with wdog := 0 } }
  s.mb.order.foldl State.take s

end Sys2Proof.Machine
end

