-- ==== Sys2Proof/Machine/Registers.lean ====
section
/-!
DEFINITION. The BAR0 registers (R402 to R407, R240, R385), the mailbox window (R409, R410), the MSI-X table (R401) and
BAR2 (R406 to R408) as shared operations of the host rows and of the I3C path.
-/
namespace Sys2Proof.Machine

/-! ## Register values -/

def State.cpState (s : State) : Nat := place s.cp.fail 16 + place s.ep.st.code 4 + s.cp.phase
/-- MBOX_OWNED: bit n while OWNER of mailbox n is 1. -/
def State.mboxOwned (s : State) : Nat := maskOf ((List.range 64).filter (fun n => (s.box n).owner == 1))

/-- QUIET: the running pattern suppresses long windows (R246). -/
def State.quietWindows (s : State) : Bool := s.pat.st == .started && patQuiet s.pat.image

/-- BEAT_STATUS (Table 9.2). -/
def State.beatStatus (s : State) : Nat :=
  place (b2n s.beat.lost) 31 + place (b2n s.beat.relock) 30 + place (b2n s.beat.hot) 29 + place (b2n s.quietWindows) 28 +
  place (b2n (s.beat.window != 0)) 27 + s.phase

/-- SUPPLY_STATUS (Table 16.9). -/
def State.supplyStatus (s : State) : Nat :=
  let u := s.sup
  let w := s.pwr
  place (b2n u.sagSeen) 27 + place (b2n u.switchSeen) 26 + place (b2n u.throtSeen) 25 +
  place (b2n (u.sagSeen || u.switchSeen || u.throtSeen)) 24 +
  place (b2n (u.onBackup.getD 2 false)) 22 + place (b2n (u.onBackup.getD 1 false)) 21 + place (b2n (u.onBackup.getD 0 false)) 20 +
  place (b2n w.ballast) 13 + place (b2n w.ramp) 12 + place (b2n w.therm) 11 + place (b2n w.cur) 10 + place (b2n w.pwr) 9 + w.duty

/-- HOLD_STATUS (Table 16.10). -/
def State.holdStatus (s : State) : Nat := place (b2n s.sup.exited) 24 + place s.sup.count 8 + s.sup.cause

/-- The 32-bit word of BAR0 at an offset that is a multiple of 4 (Table 17.2); RSV and WO words read 0. -/
def State.regWord (s : State) (off : Nat) : Nat :=
  match off with
  | 0x000 => 0xF0245D00
  | 0x004 => 0x000000A0
  | 0x008 => Config.romVersion.toNat
  | 0x010 => s.cpState
  | 0x020 => fld s.mboxOwned 31 0
  | 0x024 => fld s.mboxOwned 63 32
  | 0x040 => fld s.bar.chimeStatus 31 0
  | 0x044 => fld s.bar.chimeStatus 63 32
  | 0x048 => fld s.bar.chimeMask 31 0
  | 0x04C => fld s.bar.chimeMask 63 32
  | 0x104 => s.resetCause
  | 0x200 => fld s.beatNo 31 0
  | 0x204 => s.bar.beatHi
  | 0x208 => s.beatStatus
  | 0x210 => s.supplyStatus
  | 0x300 => s.holdStatus
  | 0x400 => (s.bar.scratch.getD 0 0).toNat
  | 0x404 => (s.bar.scratch.getD 1 0).toNat
  | 0x408 => (s.bar.scratch.getD 2 0).toNat
  | 0x40C => (s.bar.scratch.getD 3 0).toNat
  | 0x500 => s.bar.window
  | _ => 0

/-- A read of BEAT_NUMBER_LO latches the high half (R240). -/
def State.latchBeat (s : State) : State := { s with bar := { s.bar with beatHi := fld s.beatNo 47 32 } }

/-! ## Register writes -/

/-- A 32-bit value with the bits of a mask replaced. -/
def merge (old v mask : Nat) : Nat := (old &&& (0xFFFFFFFF ^^^ (mask % 2 ^ 32))) ||| (v &&& mask)

/-- CHIME_STATUS is W1C (R413). -/
def State.putChimeStatus (s : State) (w : Nat) : State :=
  { s with bar := { s.bar with chimeStatus := clearBits s.bar.chimeStatus w } }

/-- CHIME_MASK; a message whose last mask clears is sent (R413). -/
def State.putChimeMask (s : State) (m : Nat) : State :=
  ({ s with bar := { s.bar with chimeMask := m % 2 ^ 64 } }).releaseChimes

/-- RESET_CTL (R404, R479). -/
def State.putResetCtl (s : State) (v : Nat) : State :=
  if fld v 31 16 = 0xA5C3 && bitAt v 0 && s.cp.phase ≠ 5 then s.takeReset 2 (bitAt v 1) else s.count 0 10 1

/-- SUPPLY_STATUS: the three seen bits are W1C (R385). -/
def State.putSupplyStatus (s : State) (v : Nat) : State :=
  { s with sup := { s.sup with
      sagSeen := s.sup.sagSeen && !bitAt v 27, switchSeen := s.sup.switchSeen && !bitAt v 26,
      throtSeen := s.sup.throtSeen && !bitAt v 25 } }

/-- HOLD_STATUS: EXITED is W1C (R385). -/
def State.putHoldStatus (s : State) (v : Nat) : State :=
  { s with sup := { s.sup with exited := s.sup.exited && !bitAt v 24 } }

/-- APERTURE_BASE: a WINDOW above 47 is ignored (R406). -/
def State.putAperture (s : State) (v : Nat) : State :=
  if fld v 5 0 ≤ 47 then { s with bar := { s.bar with window := fld v 5 0 } } else s

/-- Store by the register's access type the bits of `mask` of the word at `off`; RO, RSV words keep (R402). A RESET_CTL
write of less than the whole word never holds KEY (log 28). -/
def State.regPut (s : State) (off v mask : Nat) : State :=
  let scr (i : Nat) : State := { s with bar := { s.bar with
    scratch := s.bar.scratch.set i (BitVec.ofNat 32 (merge (s.bar.scratch.getD i 0).toNat v mask)) } }
  match off with
  | 0x040 => s.putChimeStatus (v &&& mask)
  | 0x044 => s.putChimeStatus (place (v &&& mask) 32)
  | 0x048 => s.putChimeMask (place (fld s.bar.chimeMask 63 32) 32 + merge (fld s.bar.chimeMask 31 0) v mask)
  | 0x04C => s.putChimeMask (place (merge (fld s.bar.chimeMask 63 32) v mask) 32 + fld s.bar.chimeMask 31 0)
  | 0x100 => s.putResetCtl (if mask = 0xFFFFFFFF then v else 0)
  | 0x210 => s.putSupplyStatus (v &&& mask)
  | 0x300 => s.putHoldStatus (v &&& mask)
  | 0x400 => scr 0
  | 0x404 => scr 1
  | 0x408 => scr 2
  | 0x40C => scr 3
  | 0x500 => s.putAperture (merge s.bar.window v mask)
  | _ => s

/-! ## Mailboxes -/

/-- The 32 header bytes of a mailbox (Table 17.8). -/
def Mbox.header (b : Mbox) : List Byte :=
  [b.owner, b.gen, b.opflags, b.tag, b.length, b.status, b.resultLen, b.bitmap].flatMap (fun w => natLe 4 w.toNat)

/-- Byte at an offset of a mailbox, as a read returns it: the reserved FLAGS [7:2] read 0 (Table 17.9, R8). -/
def Mbox.byte (b : Mbox) (o : Nat) : Byte :=
  if o = 0x00A then b.header.getD o 0 &&& 3#8 else if o < 32 then b.header.getD o 0 else b.payload.read (o - 32)

/-- The mailbox with bytes stored from an offset, OWNER left as it is. FLAGS [7:2] are kept for the check of R415, which
refuses a command that sets them, and read 0 (log 111, DESIGN CHOICE). -/
def Mbox.store (b : Mbox) (off : Nat) (data : List Byte) : Mbox :=
  let h := (List.range 32).map (fun o => if off ≤ o && o < off + data.length then data.getD (o - off) 0 else b.header.getD o 0)
  let w (i : Nat) : Word32 := BitVec.ofNat 32 (leNat ((h.drop (4 * i)).take 4))
  let skip := 32 - min 32 off
  ⟨b.owner, w 1, w 2, w 3, w 4, w 5, w 6, w 7, b.payload.writeN (off + skip - 32) (data.drop skip)⟩

/-- Hand mailbox n to the device (R410, R411). -/
def State.handOver (s : State) (n : Nat) : State :=
  let s := s.setBox n { s.box n with owner := 1 }
  State.take { s with mb := { s.mb with order := s.mb.order ++ [n] } } n

/-- A write to OWNER: 1 hands over, 0 returns a completed mailbox, any other value is ignored (R410, log 27). -/
def State.putOwner (s : State) (n v : Nat) : State :=
  if (s.box n).owner = 1 then s
  else if fld v 1 0 = 1 then s.handOver n
  else if fld v 1 0 = 0 && (s.box n).owner = 2 then s.setBox n { s.box n with owner := 0 }
  else s

/-- A host write to bytes of a mailbox: discarded and counted while OWNER is 1 (R409, R410); OWNER acts last. -/
def State.mboxWrite (s : State) (n off : Nat) (data : List Byte) : State :=
  if data.isEmpty then s
  else if (s.box n).owner = 1 then s.count 0 9 1
  else
    let own := natLe 4 (s.box n).owner.toNat
    let new := (List.range 4).map (fun o => if off ≤ o && o < off + data.length then data.getD (o - off) 0 else own.getD o 0)
    let s := s.setBox n ((s.box n).store off data)
    if off < 4 then s.putOwner n (leNat new) else s

/-! ## MSI-X table -/

/-- Bytes of the MSI-X table; bits of a vector control word above bit 0 hold 0 (log 14). -/
def State.putMsix (s : State) (off : Nat) (data : List Byte) : State :=
  let fix (a : Nat) (v : Byte) : Byte := if a % 16 < 12 then v else if a % 16 = 12 then v &&& 1#8 else 0#8
  let t := (List.range data.length).foldl (fun t i => Mem.write t (off + i) (fix (off + i) (data.getD i 0))) s.pcie.table
  ({ s with pcie := { s.pcie with table := t } }).releaseChimes

/-! ## BAR0 and BAR2 -/

/-- A host write within BAR0, not across a 4 KiB boundary (R402, R409). -/
def State.bar0Write (s : State) (off : Nat) (data : List Byte) : State :=
  if 0x10000 ≤ off && off < 0x50000 then s.mboxWrite ((off - 0x10000) / 4096) (off % 4096) data
  else if 0x70000 ≤ off && off + data.length ≤ 0x70400 then s.putMsix (off - 0x70000) data
  else if data.length = 4 && off % 4 = 0 then s.regPut off (leNat data) 0xFFFFFFFF
  else if data.length = 8 && off % 8 = 0 then
    (s.regPut off (leNat (data.take 4)) 0xFFFFFFFF).regPut (off + 4) (leNat (data.drop 4)) 0xFFFFFFFF
  else s

/-- DRAM address of a BAR2 offset (R406). -/
def State.windowAddr (s : State) (off : Nat) : Nat := s.bar.window * 2 ^ 32 + off

/-- Bursts of a DRAM range. -/
def burstsOf (a n : Nat) : List Nat := (List.range ((a + n + 127) / 128 - a / 128)).map (a / 128 + ·)

/-- Note a BAR2 read of one burst: the stack logs DRAM_UE for UE and for POISON (R408). It is no read of a step, so the burst
joins no rewrite (R230). -/
def State.bar2Note (s : State) (b : Nat) : State :=
  match s.dramOut b with
  | .poison => s.logEvent 3 (dramLoc (b * 128)).stack 0x41 ((dramLoc (b * 128)).chan * 32 + (dramLoc (b * 128)).bank) (b * 128)
  | _ =>
    let t := s.dramNote b
    { t with dram := { t.dram with rewrite := s.dram.rewrite } }

/-- A BAR2 read (R406, R408): the bytes of a UE burst are not delivered and are free (log 8). -/
def State.bar2Get (s : State) (off n : Nat) : State :=
  let a := s.windowAddr off
  let bad (b : Nat) : Bool := match s.dramOut b with | .poison => true | .ue => true | _ => false
  let ue (b : Nat) : Bool := match s.dramOut b with | .ue => true | _ => false
  let bytes := (List.range n).map (fun i =>
    if ue ((a + i) / 128) then Config.freeByte (s.free + i) else s.dramByte (a + i))
  let poison := (burstsOf a n).any bad
  (((burstsOf a n).foldl State.bar2Note s).drew n).emit (.data bytes poison)

end Sys2Proof.Machine
end

