-- ==== Sys2Proof/Machine/BeatOps.lean ====
section
/-!
DEFINITION. The beat and the housekeeping windows (R235 to R249, R261 to R263), the wake-up phase (R244) and the clock gates of
the cores (R397). `temps` are the 24 stack temperatures sampled with the beat, in 0.01 °C.
-/
namespace Sys2Proof.Machine

/-! ## The start of a beat -/

/-- The policy values that wait for the beat come into force (R441). -/
def State.takePolicies (s : State) : State :=
  s.pol.next.foldl (fun s e =>
    if e.1 = 0x0001 then { s with pol := { s.pol with routing := some e.2 } }
    else { s with pol := { s.pol with values := Table.set none s.pol.values e.1 (some e.2) } })
    { s with pol := { s.pol with next := [] } }

/-- The refresh window's length for the beat (R242): AUTO goes by the samples before it, for the first beat by its own, and
is followed in HOT mode too, so that the samples decide again when the mode returns to AUTO (log 66). -/
def State.takeRefresh (s : State) (temps : List Nat) : State :=
  let overs (l : List Nat) : Bool := l.any (fun t => decide (8500 < t))
  let auto := if s.beat.first then overs temps
    else if overs s.dram.temps then true
    else if 1024 ≤ s.beat.cool then false
    else s.beat.autoHot
  { s with beat := { s.beat with
      hot := auto || s.policy 0x0050 == 1, autoHot := auto,
      cool := if temps.all (fun t => decide (t < 8300)) then s.beat.cool + 1 else 0 } }

/-- One stack's throttle (R263, R450): from the throttle point on, until 2 °C below it. -/
def State.throttleStack (s : State) (st temp : Nat) : State :=
  let point := s.field 0x0141 * 100
  if NatSet.has s.dram.throttled st then
    if temp < point - 200 then { s with dram := { s.dram with throttled := NatSet.remove s.dram.throttled st } }
    else s.count 2 (8 * st + 7) 1
  else if point ≤ temp then
    (({ s with dram := { s.dram with throttled := NatSet.insert s.dram.throttled st } }).count 2 (8 * st + 7) 1).logEvent 3 st 0x48 0 temp
  else s

/-- The stack temperatures of the beat (R263). -/
def State.takeTemps (s : State) (temps : List Nat) : State :=
  (List.range 24).foldl (fun s st => s.throttleStack st (temps.getD st 0)) { s with dram := { s.dram with temps := temps } }

/-- Means over the beat that ended, for TELEMETRY and the load floor (Table 18.4, R389). -/
def State.takeMeans (s : State) : State :=
  let w := s.pwr
  if w.samples = 0 then { s with pwr := { w with dutyMin := w.duty } }
  else
    let d := w.sum / w.samples
    { s with pwr := { w with
      draw := d, current := w.csum / w.samples, means := (d :: w.means).take 16, sum := 0, csum := 0, samples := 0,
      dutyMin := w.duty } }

/-- What is counted per beat starts again. -/
def State.clearPerBeat (s : State) : State :=
  { s with
    ev := { s.ev with marks := [], sags := 0 },
    ports := s.ports.map (fun e => (e.1, { e.2 with corr := List.replicate 8 0 })) }

/-- A beat starts at a time, with a number (R236, R238); an edge inside an open long window defers its refresh (R243). -/
def State.startBeat (s : State) (at_ num : Nat) (temps : List Nat) : State :=
  let s := (s.takePolicies.takeRefresh temps).takeTemps temps
  let s := s.takeMeans.clearPerBeat
  { s with beat := { s.beat with
      num := num % 2 ^ 48, start := at_, first := false, run := 0, deferRef := s.beat.window == 2 } }

/-- The number of the beat that follows: the first after a reset is 0 (R238). -/
def State.nextNum (s : State) : Nat := if s.beat.first then 0 else s.beat.num + 1

/-! ## Edges -/

/-- The value that most trained ports carry, the lowest of equals. -/
def State.portBeat (s : State) : Option Nat :=
  let vs := allPorts.filterMap (fun p => if (s.port p).trained then (s.port p).beat16 else none)
  vs.foldl (fun b v =>
    match b with
    | none => some v
    | some x => if vs.count x < vs.count v || (vs.count v == vs.count x && decide (v < x)) then some v else b) none

/-- The 48-bit number nearest a count whose low 16 bits are given (R248); halfway the higher one. Numbers do not wrap. -/
def nearestBeat (own low : Nat) : Nat :=
  let up := own + (low + 65536 - own % 65536) % 65536
  if up < 65536 || (up ≤ own + 32768 && up < 2 ^ 48) then up else up - 65536

/-- The sixteenth edge of a run: the device is locked (R248). Windows follow the beat from the next one on: `run` stays 16. -/
def State.lockBeat (s : State) (temps : List Nat) : State :=
  let own := s.nextNum
  let num := match s.portBeat with | some v => nearestBeat own v | none => own
  let s := s.startBeat s.now num temps
  let s := { s with beat := { s.beat with lost := false, relock := false, misses := 0, run := 16 } }
  s.logCp 0xD6 0 s.beatNo

/-- An edge while LOST: it begins, extends or restarts a run (R248). -/
def State.lostEdge (s : State) (temps : List Nat) : State :=
  let b := s.beat
  let d := s.now - b.lastEdge
  let run := if b.relock && decide (s.period ≤ d + 200) && decide (d ≤ s.period + 200) then b.run + 1 else 1
  let s := { s with beat := { b with relock := true, run := run, lastEdge := s.now } }
  if run = 16 then s.lockBeat temps else s

def execBeatEdge (t : Nat) (temps : List Nat) (s : State) : Host.Outcome State Fault Refusal :=
  guardUnit (tempsOk temps) (
    let s := s.at t
    if !s.live then s
    else if s.beat.lost then s.lostEdge temps
    else
      let want := s.beat.start + s.period
      if want ≤ s.now + 200 && s.now ≤ want + 200 then
        let s := s.startBeat s.now s.nextNum temps
        { s with beat := { s.beat with misses := 0 } }
      else s.count 0 6 1)

/-- No edge by the expected time plus 200 ns: the device starts the beat itself and counts a miss; two in succession lose the
beat (R236, R247). While LOST it starts every beat itself, and its run of edges goes on. -/
def execBeatMiss (t : Nat) (temps : List Nat) (s : State) : Host.Outcome State Fault Refusal :=
  guardUnit (tempsOk temps) (
    let s := s.at t
    let want := s.beat.start + s.period
    if !s.live then s
    else if s.beat.lost then
      if s.now < want then s
      else
        let run := s.beat.run
        let s := s.startBeat want s.nextNum temps
        { s with beat := { s.beat with run := run } }
    else if s.now < want + 200 then s
    else
      let misses := s.beat.misses + 1
      let s := (s.startBeat want s.nextNum temps).count 0 7 1
      let s := { s with beat := { s.beat with misses := misses } }
      if 2 ≤ misses then
        (({ s with beat := { s.beat with lost := true, relock := false, run := 0 } }).logCp 0xD5 0 0).eventChime
      else s)

/-! ## Windows (R241 to R243, R246) -/

/-- W in ns (R242). -/
def State.refreshNs (s : State) : Nat := roundUp (s.period * (if s.beat.hot then 48 else 24) / 1000) 100

/-- May a window open now: DRAM is trained and not in self-refresh, and the beat is not the one that a re-lock took (R248). -/
def State.windowsRun (s : State) : Bool :=
  s.live && s.dram.trained && !s.dram.selfRef && s.cp.phase != 5 && !(s.beat.run == 16 && !s.beat.lost)

/-- Open a window: 1 refresh, 2 long, 3 a refresh deferred by a long window. -/
def State.openWindow (s : State) (w : Nat) : State :=
  { s with beat := { s.beat with window := w }, dram := { s.dram with closed := true } }
def State.closeWindow (s : State) : State :=
  { s with beat := { s.beat with window := 0 }, dram := { s.dram with closed := false } }

/-- The refresh window of the beat opens (R241), a deferred one when the long window ends (R243). -/
def execRefreshWindow (t : Nat) (s : State) : Host.Outcome State Fault Refusal :=
  .next (
    let s := s.at t
    if !s.windowsRun then s
    else if s.beat.deferRef then
      if s.beat.window = 2 && s.beat.lastLong + 40000 ≤ s.now then
        ({ s with beat := { s.beat with deferRef := false } }).openWindow 3
      else s
    else if s.beat.window = 0 && s.now < s.beat.start + s.refreshNs then s.openWindow 1
    else s)

/-- Is a long window due in this beat, and is it forced (R246). -/
def State.longDue (s : State) : Bool × Bool :=
  let isLong := s.windowsRun && s.beat.num % 1024 == 0 && s.beat.window != 2 && decide (s.beat.lastLong < s.beat.start) &&
    decide (s.now < s.beat.start + 40000)
  let forced := s.quietWindows && decide (s.beat.lastLong + 2000000000 ≤ s.beat.start)
  (isLong && (!s.quietWindows || forced), forced)

/-- The eye trim of a port (Table 9.3, R281): a degraded port skips it; a lane that fails in it degrades the port to the
trimmed half if that half retrains, else takes it down. -/
def State.trimPort (s : State) (p : Port) (fail : Option (Fin 8 × Bool)) : State :=
  match (s.port p).st with
  | .degraded _ => s.logEvent 2 (Port.idx p) 0x56 0 0
  | .full => match fail with
    | some (lane, true) => s.laneFail p lane.val
    | some (_, false) => s.portDown p
    | none => s
  | _ => s

/-- Deferred requests run in the window, from the one chosen on: a slice of each, and one whose last slice this is ends and is
logged with the beat that its reply named (R245). -/
def State.finishTasks (s : State) : State :=
  let due (x : Task) : Bool := decide (x.window ≤ s.beatNo)
  let last := s.beat.tasks.filter (fun x => due x && decide (x.left ≤ 1))
  let rest := (s.beat.tasks.filter (fun x => !(due x && decide (x.left ≤ 1)))).map (fun x =>
    if due x then { x with left := x.left - 1 } else x)
  last.foldl (fun s x => s.logCp 0xD8 (place x.op 16 + x.status) x.window) { s with beat := { s.beat with tasks := rest } }

/-- The long window of a long beat opens (R241, R246): bond lanes below their limit are spared (R266, R255), every port trims,
deferred requests run. -/
def execLongWindow (t : Nat) (lanes : List (Nat × Nat)) (trimFail : List (Port × Fin 8 × Bool)) (s : State) :
    Host.Outcome State Fault Refusal :=
  guardUnit (lanesOk lanes) (
    let s := s.at t
    let due := s.longDue
    if !due.1 then s
    else
      let s := if due.2 then (s.logCp 0xD7 0 s.beatNo).eventChime else s
      let s := s.openWindow 2
      let s := { s with beat := { s.beat with lastLong := s.beat.start } }
      let s := lanes.foldl (fun s l => s.spareLane l.1 l.2) s
      let s := allPorts.foldl (fun s p => s.trimPort p ((trimFail.find? (fun f => f.1 == p)).map Prod.snd)) s
      s.finishTasks)

/-- The open window ends at its time (R241, R243); a deferred refresh follows a long window at once. -/
def execWindowEnd (t : Nat) (s : State) : Host.Outcome State Fault Refusal :=
  .next (
    let s := s.at t
    let w := s.refreshNs
    match s.beat.window with
    | 1 => if s.beat.start + w ≤ s.now then s.closeWindow else s
    | 2 =>
      if s.now < s.beat.lastLong + max 40000 w then s
      else if s.beat.deferRef then ({ s with beat := { s.beat with deferRef := false } }).openWindow 3
      else s.closeWindow
    | 3 => if s.beat.lastLong + 40000 + w ≤ s.now then s.closeWindow else s
    | _ => s)

/-! ## The destructive self-test of a core -/

/-- Bytes of a core store (R47). -/
def storeBytes : Nat := 0x600000

/-- The destructive logic self-test of a core: its clock runs, its op lists stop, its store is left undefined (log 44). -/
def State.testCore (s : State) (c : Nat) : State :=
  let s := s.updCore c (fun k => undefineRange { stopCore k with
    poison := [], flips := [], gated := false, idleAt := s.now } s.free 0 storeBytes)
  s.drew storeBytes

/-- Status of a unit that its test finds good or bad. -/
def testStatus (fails : List Nat) (u : Nat) : Nat := if fails.contains u then stRejected else stOk

/-- SELFTEST commands whose test of core c waits for the core's clock (R244). -/
def State.testsOf (s : State) (c : Nat) : List Job :=
  s.mb.jobs.filter (fun j => j.kind == .selftest && j.units.any (fun u => u.1 == 64 + c && u.2.isNone))

/-- The clock of a core under test starts: the tests that waited for it run, and a command with no other unit open completes
(R244, R245). -/
def State.wakeTests (s : State) (c : Nat) : State :=
  (s.testsOf c).foldl (fun s j =>
    let j := { j with units := j.units.map (fun u => if u.1 = 64 + c && u.2.isNone then (u.1, some (testStatus j.args u.1)) else u) }
    let s := s.testCore c
    let s : State := { s with mb := { s.mb with jobs := s.mb.jobs.map (fun x => if x.n == j.n then j else x) } }
    if j.units.all (fun u => u.2.isSome) then s.replyUnits j.n (j.units.map (fun u => u.2.getD 0)) [] else s) s

/-! ## Clock gates (R397) -/

/-- Has a core's domain been gated for more than 1 ms (R244); its self-test waits for its clock (log 128). -/
def State.coldCore (s : State) (c : Nat) : Bool := (s.core c).gated && decide (1000000 < s.now - (s.core c).gatedAt)

/-- A core domain ungated by STEP_RUN or for a self-test after more than 1 ms starts at its wake-up phase (R244, R397). -/
def execCoreWake (c : Fin 64) (t : Nat) (s : State) : Host.Outcome State Fault Refusal :=
  .next (
    let s := s.at t
    let k := s.core c.val
    let m := s.selfIdx % 16
    if !k.gated || s.now - s.beat.start ≠ ceilDiv (m * s.period) 16 then s
    else if !(s.testsOf c.val).isEmpty then s.wakeTests c.val
    else if s.running && s.participants.contains c.val then s.updCore c.val (fun k => { k with gated := false })
    else s)

/-- A core's clock is gated when it has been idle for 100 µs while no step runs, or when the started pattern gives it no op list;
a core under a destructive self-test is not (Table 16.13). -/
def execClockGate (c : Fin 64) (t : Nat) (s : State) : Host.Outcome State Fault Refusal :=
  .next (
    let s := s.at t
    let k := s.core c.val
    let idle := !s.running && decide (k.idleAt + 100000 ≤ s.now)
    let none_ := s.pat.st == .started && !s.participants.contains c.val
    if s.live && !k.gated && (idle || none_) && (s.testsOf c.val).isEmpty then
      s.updCore c.val (fun k => { k with gated := true, gatedAt := s.now })
    else s)

/-- The clock domains of Table 16.13. -/
inductive Domain where
  | core (c : Fin 64) | stack (st : Fin 24) | port (p : Port) | hif | fabric | staging | cp | always
  deriving DecidableEq, Repr

/-- The 100 domains, in the order of the table. -/
def domains : List Domain :=
  (List.finRange 64).map .core ++ (List.finRange 24).map .stack ++ allPorts.map .port ++ [.hif, .fabric, .staging, .cp, .always]

/-- Is a domain's clock gated: a core's by its gate, which the rows above move; every other by the table's condition on the state
(R397, log 126). In hold and during reset the logic's clocks stop; the CP then runs from the always-on domain in hold. -/
def State.domainGated (s : State) : Domain → Bool
  | .core c => (s.core c.val).gated
  | .stack _ | .hif | .fabric | .staging => !s.live || s.cp.phase == 5
  | .port p => !s.live || s.cp.phase == 5 || (s.port p).st == .disabled || (s.port p).st == .down
  | .cp => s.cp.phase == 5
  | .always => false

end Sys2Proof.Machine
end

