-- ==== Sys2Proof/Machine/PatternOps.lean ====
section
/-!
DEFINITION. Loading a pattern into the cores (R53, R58, R433, R489): what PATTERN_START does and hold exit repeats.
-/
namespace Sys2Proof.Machine

/-- Bytes of a list as a memory from offset 0. -/
def memOf (bs : List Byte) : Mem := Mem.writeN [] 0 bs

/-- The initial counters of a core (R53). -/
def loadCounters (img : List Byte) (c : Nat) (k : Core) : Core :=
  (List.range 64).foldl (fun k p => (k.setSem p false (declFull img c p)).setSem p true (declEmpty img c p)) { k with remote := [] }

/-- The default bound registers of a core (R58). -/
def loadBounds (img : List Byte) (c : Nat) (k : Core) : Core :=
  { k with bnd := (List.range 32).foldl (fun t i => Table.set 0 t i (declBnd img c i)) [] }

/-- Store a section's bytes in a core store; they carry no poison and no upset. -/
def loadBytes (k : Core) (a : Nat) (bs : List Byte) : Core :=
  let z := a + bs.length
  { k with
    store := k.store.blit a bs.length (memOf bs),
    poison := k.poison.filter (fun u => decide (64 * u + 64 ≤ a) || decide (z ≤ 64 * u)),
    flips := k.flips.filter (fun e => decide (8 * e.1 + 8 ≤ a) || decide (z ≤ 8 * e.1)) }

/-- Load one core from the stored image: sections, counters, bound registers. A core without an op list has its clock
gated, and no core's gate opens (R397). -/
def loadCore (img : List Byte) (now c : Nat) (k0 : Core) : Core :=
  let k := { Core.init with
    store := k0.store, poison := k0.poison, flips := k0.flips, gated := k0.gated, gatedAt := k0.gatedAt }
  let k := match sectFor img 2 c with
    | some d => loadBytes k d.target (sectBytes img d)
    | none => k
  let k := match sectFor img 1 c with
    | some d => { loadBytes k d.target (sectBytes img d) with ctl := some d.target }
    | none => { k with gated := true, gatedAt := if k.gated then k.gatedAt else now }
  loadBounds img c (loadCounters img c { k with idleAt := now })

/-- Load every core (R433). -/
def State.loadCores (s : State) : State :=
  (List.range 64).foldl (fun s c => s.setCore c (loadCore s.pat.image s.now c (s.core c))) s

/-- Cores that a pattern declares as spares (R245). -/
def patSpares (img : List Byte) : Nat := wordOf img 3

end Sys2Proof.Machine
end

