-- ==== Sys2Proof/Machine/InfoCmds.lean ====
section
/-!
DEFINITION. INFO, TELEMETRY and EVENT_LOG_READ (R430, Tables 18.3 to 18.5).
-/
namespace Sys2Proof.Machine

/-- LENGTH must equal the argument size (R423). -/
def State.sized (s : State) (n : Nat) (bs : List Byte) (want : Nat) (k : State → State) : State :=
  if bs.length = want then k s else s.fail n stBadArg

/-- Status OK with result bytes, for a command of the Single class (log 37). -/
def State.okBytes (s : State) (n : Nat) (bytes : List Byte) : State := s.reply n stOk 0 bytes 0

/-! ## INFO -/

/-- Words Z0 to Z3 of page 0 (Table 18.3). -/
def State.infoWords (s : State) : List Nat :=
  [s.ep.next % 2 ^ 64, s.beatNo, s.twin.word,
   place (s.pwr.vmin % 65536) 48 + place (match s.memberRec with | some r => r.self | none => 0xFFFF) 32 +
   place (s.hif.rev % 256) 24 + place (s.hif.rate % 256) 16 + place (s.hif.modules % 256) 8 + place (s.img.bank % 4) 6 +
   place (b2n s.car.member) 5 + place (s.field 0x0100 % 4) 3 + place (s.field 0x0160 % 2) 2 + s.pat.st.code]

def zeroDigest : List Byte := List.replicate 32 0#8

/-- The pattern digest, 0 in state NONE. -/
def State.patDigest (s : State) : List Byte := if s.pat.st = .none then zeroDigest else s.pat.digest

def State.infoPage0 (s : State) : List Byte := bytes64 s.infoWords ++ s.patDigest ++ s.rud.digest

/-- INFO's result by page. -/
def State.infoPage (s : State) (page : Nat) : Option (List Byte) :=
  match page with
  | 0 => some s.infoPage0
  | 1 => some ((List.range 384).flatMap (fun i => natLe 4 (Config.lTable i).toNat))
  | 2 => some ((List.range 16).map Config.poisonMark)
  | _ => none

def execInfo (n : Fin 64) (s : State) : Host.Outcome State Fault Refusal :=
  .next (s.serve n.val 0x01 [0xFF] (fun s bs => s.sized n.val bs 8 (fun s =>
    match s.infoPage (argW bs 0) with
    | some r => s.okBytes n.val r
    | none => s.fail n.val stBadArg)))

/-! ## TELEMETRY -/

def State.tel (s : State) (page n : Nat) : Nat := Table.get 0 s.tele (teleKey page n)

def State.portLanes (s : State) (x : PortS) : Nat := match x.st with
  | .full => if s.beat.window = 2 && s.now < s.beat.lastLong + 16000 then 4 else 8
  | .degraded _ => 4
  | _ => 0

/-- Counter n of a page (Table 18.4): those that show a unit's state are read from it. -/
def State.counter (s : State) (page n : Nat) : Nat :=
  if page = 0 then
    match n with
    | 1 => s.pwr.draw
    | 2 => s.pwr.current
    | 3 => s.pwr.tlogic
    | 4 => s.pwr.dutyMin
    | 5 => s.pwr.vmin
    | _ => s.tel 0 n
  else if page = 1 then (if n % 16 = 0 then s.portLanes (s.port (Port.ofIdx (n / 16))) else s.tel 1 n)
  else if page = 2 then
    let st := n / 8
    match n % 8 with
    | 0 => s.dram.temps.getD st 0
    | 4 => 32 * 32 * 16 - ((s.dram.spareUsed.filter (fun e => e.1 / 1024 == st)).map Prod.snd).foldl (· + ·) 0
    | 6 => (s.dram.degraded.filter (fun e => e.1 / 32 == st)).length
    | _ => s.tel 2 n
  else s.tel 3 n

/-- Words of a page: the beat, then the counters in code order; the twin status word closes page 0 (R352, log 36). -/
def State.telePage (s : State) (page : Nat) : Option (List Nat) :=
  let from_ (a k : Nat) : List Nat := (List.range k).map (fun i => s.counter page (a + i) % 2 ^ 64)
  match page with
  | 0 => some (s.beatNo :: from_ 1 17 ++ [s.twin.word])
  | 1 => some (s.beatNo :: from_ 0 112)
  | 2 => some (s.beatNo :: from_ 0 192)
  | 3 => some (s.beatNo :: from_ 0 256)
  | _ => none

def execTelemetry (n : Fin 64) (s : State) : Host.Outcome State Fault Refusal :=
  .next (s.serve n.val 0x02 [0xFF] (fun s bs => s.sized n.val bs 8 (fun s =>
    match s.telePage (argW bs 0) with
    | some ws => s.okWords n.val ws
    | none => s.fail n.val stBadArg)))

/-! ## EVENT_LOG_READ -/

/-- An event record (Table 18.5). -/
def EvRec.words (e : EvRec) : List Nat :=
  [place e.seq 32 + place (e.kind % 256) 24 + place (e.index % 256) 16 + e.code % 65536, place e.beat 16,
   place e.data0 32 + e.phase % 2 ^ 17, e.data1]

/-- The first `m` records wanted, with their positions, from position `p` on. -/
def pickRecs (want : EvRec → Bool) : Nat → Nat → List EvRec → List (Nat × EvRec)
  | _, _, [] => []
  | 0, _, _ => []
  | m + 1, p, e :: t => if want e then (p, e) :: pickRecs want m (p + 1) t else pickRecs want (m + 1) (p + 1) t

/-- EVENT_LOG_READ's result: next position, records, and whether the cursor was older than the oldest kept. -/
def State.readLog (s : State) (cursor maxrec : Nat) (want : EvRec → Bool) : Nat × List EvRec × Bool :=
  let oldest := s.ev.next - s.ev.recs.length
  let from_ := max cursor oldest
  let got := pickRecs want maxrec from_ (s.ev.recs.drop (from_ - oldest))
  let next := if got.length < maxrec then s.ev.next else (got.getLast?.map (fun e => e.1 + 1)).getD s.ev.next
  (next, got.map Prod.snd, decide (cursor < oldest))

/-- Does SOURCE name the record's source: 0xFF all, else kind and index (log 38). -/
def sourceWants (a1 : Nat) (e : EvRec) : Bool :=
  fld a1 23 16 == 0xFF || (e.kind == fld a1 23 21 && e.index == fld a1 20 16 + 32 * fld a1 31 24)

/-- Answer with records from the log (R430). -/
def State.replyLog (s : State) (n cursor maxrec : Nat) (want : EvRec → Bool) : State :=
  let (next, recs, older) := s.readLog cursor maxrec want
  s.reply n stOk (if older then 3 else 0) (bytes64 (next :: recs.flatMap EvRec.words)) 0

def execEventLogRead (n : Fin 64) (s : State) : Host.Outcome State Fault Refusal :=
  .next (s.serve n.val 0x03 [allBits, bits 32 0] (fun s bs => s.sized n.val bs 16 (fun s =>
    let a1 := argW bs 1
    if bitAt a1 32 then
      if !(s.box n.val).sgl then s.fail n.val stBadArg
      else match s.ev.snares.find? (fun e => e.1 == argW bs 0) with
        | some e => s.okBytes n.val e.2
        | none => s.fail n.val stBadArg
    else if fld a1 15 0 < 1 || 16384 < fld a1 15 0 then s.fail n.val stBadArg
    else s.replyLog n.val (argW bs 0) (fld a1 15 0) (sourceWants a1))))

end Sys2Proof.Machine
end

