-- ==== Sys2Proof/Machine/Approx.lean ====
section
/-!
DEFINITION. The mathematical functions that the manual bounds results by (R138, Table 5.9), in fixed point to about 2^-60,
and what a free value becomes under such a bound.
-/
namespace Sys2Proof.Machine

/-- The largest n below 2^k with `ok n`, bit by bit from the top. -/
def buildBits (ok : Nat → Bool) : Nat → Nat → Nat
  | 0, acc => acc
  | k + 1, acc => buildBits ok k (if ok (acc + 2 ^ k) then acc + 2 ^ k else acc)

/-- Binary digits of log2 of a mantissa m in [1, 2), m held as m × 2^255, by repeated squaring. -/
def logDigits : Nat → Nat → Nat → Nat
  | 0, _, acc => acc
  | k + 1, m, acc =>
    let sq := (m * m) >>> 255
    if 2 ^ 256 ≤ sq then logDigits k (sq / 2) (2 * acc + 1) else logDigits k sq (2 * acc)

/-! ## On the grid 2^-64, for z from 0 to 2^64 -/

def fxSqrt (n : Nat) : Nat := buildBits (fun r => decide (r * r ≤ n)) 66 0
/-- 2^z: the root of the product, one bit of z at a time. -/
def fxExp2 (z : Nat) : Nat :=
  if z = 2 ^ 64 then 2 ^ 65 else (List.range 64).foldl (fun y i => fxSqrt (y * (if z.testBit i then 2 ^ 65 else 2 ^ 64))) (2 ^ 64)
/-- log2(1 + z). -/
def fxLog2 (z : Nat) : Nat := if z = 2 ^ 64 then 2 ^ 64 else logDigits 64 ((2 ^ 64 + z) * 2 ^ 191) 0
/-- 1 / (1 + z). -/
def fxRcp (z : Nat) : Nat := 2 ^ 128 / (2 ^ 64 + z)
/-- 1 / √(1 + z). -/
def fxRsqrt (z : Nat) : Nat := fxSqrt (2 ^ 192 / (2 ^ 64 + z))

def clampNat (lo hi x : Nat) : Nat := min hi (max lo x)

/-- A free function that does not decrease: `split` gives, for each prefix of the argument's n bits, a point between the
values left and right of it. -/
def monoFree (split : Nat → Nat) : (n pre lo hi z : Nat) → Nat
  | 0, pre, lo, hi, _ => lo + split pre % (hi - lo + 1)
  | n + 1, pre, lo, hi, z =>
    let m := lo + split pre % (hi - lo + 1)
    if z.testBit n then monoFree split n (2 * pre + 1) m hi z else monoFree split n (2 * pre) lo m z

/-! ## On exact numbers -/

/-- LOG2E on the grid 2^-64 (R134). -/
def cLog2e : Val := .num false 26613026195688644983 (-64)
/-- LN2 on the grid 2^-64 (R134). -/
def cLn2 : Val := .num false 12786308645202655660 (-64)

/-- A number rounded toward zero to FP32. A magnitude beyond the range becomes the greatest finite one or an infinity, as
the part has it (log 12). -/
def rtz32 (v : Val) : Val :=
  match v with
  | .num n m e =>
    if m = 0 then v
    else
      let top : Int := (Nat.log2 m : Int) + e
      if 128 ≤ top then (if Config.lOverflow then .inf n else .num n (2 ^ 24 - 1) 104)
      else
        let q := max (top - 23) (-149)
        if q ≤ e then v else dec32 (enc32 (.num n (m >>> (q - e).toNat) q))
  | w => w

/-- e^t to a relative 2^-58, for t within ±400. -/
def expVal (t : Val) : Val :=
  let lim := Val.ofInt 400
  let p := (if lim.lt t then lim else if t.lt lim.negate then lim.negate else t).mul cLog2e
  let n := p.floorInt
  .num false (fxExp2 ((p.sub (Val.ofInt n)).scale 64).floorInt.toNat) (n - 64)

/-- a / b to a relative 2^-90; b is not 0. -/
def divVal (a b : Val) : Val :=
  match a, b with
  | .num s m e, .num t n f => .num (s != t) ((m * 2 ^ 160) / n) (e - f - 160)
  | _, _ => .nan

/-- x / (1 + e^-t). -/
def sigmoidOf (x t : Val) : Val := let w := expVal t; divVal (x.mul w) ((Val.ofInt 1).add w)

/-- ln(1 + e^x). -/
def softplusOf (x : Val) : Val :=
  let w := expVal (x.abs).negate
  let l := if w.lt (.num false 1 (-30)) then w.mul ((Val.ofInt 1).sub (w.scale (-1)))
    else cLn2.mul (.num false (fxLog2 (w.scale 64).floorInt.toNat) (-64))
  if x.neg then l else x.add l

/-- π/2 on the grid 2^-128. -/
def halfPi : Int := 534514292032483373929840186580935391650

/-- Terms of a Taylor series on the grid 2^-64: each is the one before it times -r² / (k (k + 1)). -/
def taylor (r2 : Int) : Nat → Int → Int → Int
  | 0, _, _ => 0
  | n + 1, k, term => term + taylor r2 n (k + 2) (-(term * r2 / 2 ^ 64 / (k * (k + 1))))

/-- sin(x + q π/2) on the grid 2^-64, for |x| up to 2^24. -/
def sinOf (x : Val) (q : Int) : Val :=
  let z := (x.scale 128).floorInt
  let n := (z + halfPi / 2) / halfPi
  let r := (z - n * halfPi) / 2 ^ 64
  let r2 := r * r / 2 ^ 64
  let c := (n + q) % 4
  let v := if c % 2 = 0 then taylor r2 12 2 r else taylor r2 12 1 (2 ^ 64)
  (Val.ofInt (if 2 ≤ c then -v else v)).scale (-64)

/-- ulp(v) of R138. -/
def ulpOf (v : Val) : Val := .num false 1 ((if v.isZero then -126 else max v.log2floor (-126)) - 23)

/-- A free FP32 result under a bound: itself where it lies within `tol` of v, else v rounded. -/
def within (v tol y : Val) : Val := if (y.sub v).abs.le tol then y else round32 v

end Sys2Proof.Machine
end

