-- ==== Sys2Proof/Machine/Special.lean ====
section
/-!
DEFINITION. The SFU's built-in functions in both profiles (R134 to R141) and rudiment steps (R142). A node
value is computed from its rule: the function at the node, rounded to nearest on the grid 2^-32.
-/
namespace Sys2Proof.Machine

/-- 2^(k/128) on the grid 2^-32, k from 0 to 128. -/
def nodeExp (k : Nat) : Nat :=
  let f := buildBits (fun n => decide (n ^ 128 ≤ 2 ^ (4096 + k))) 34 0
  if 2 ^ (4096 + k + 128) ≤ (2 * f + 1) ^ 128 then f else f + 1

/-- log2(1 + k/128) on the grid 2^-32. -/
def nodeLog (k : Nat) : Nat :=
  if k = 128 then 2 ^ 32 else (logDigits 33 (((128 + k) * 2 ^ 255) / 128) 0 + 1) / 2

/-- 1/(1 + k/128) on the grid 2^-32. -/
def nodeRcp (k : Nat) : Nat := rneDiv (128 * 2 ^ 32) (128 + k)

/-- (num/den)^(-1/2) on the grid 2^-32. -/
def nodeRsqrt (num den : Nat) : Nat :=
  let f := buildBits (fun n => decide (n * n * num ≤ 2 ^ 64 * den)) 34 0
  if 2 ^ 66 * den ≤ (2 * f + 1) * (2 * f + 1) * num then f else f + 1

/-- A node value as a number. -/
def nodeVal (n : Nat) : Val := .num false n (-32)

/-- The quadratic through the three nodes (R135), exact. -/
def quad (y0 yh y1 u : Val) : Val :=
  let lin := ((yh.scale 2).sub ((y0.mul (Val.ofInt 3)).add y1))
  let q := (y0.add y1).sub (yh.scale 1)
  (y0.add (u.mul lin)).add (((u.mul u).mul q).scale 1)

/-- The segment polynomial of a node function at position `w` counted in half segments: node 2j is a
segment's left end. -/
def segment (node : Nat → Nat) (j : Nat) (u : Val) : Val :=
  quad (nodeVal (node (2 * j))) (nodeVal (node (2 * j + 1))) (nodeVal (node (2 * j + 2))) u

/-- 2^t for an exact t: reduction, segment, one rounding (R134 to R136). -/
def exp2Native (t : Val) : Val :=
  let n := t.floorInt
  if 400 < n then .inf false
  else if n < -400 then Val.zero
  else
    let f := t.sub (Val.ofInt n)
    let j := (f.scale 6).floorInt.toNat
    let u := (f.scale 6).sub (Val.ofInt j)
    round32 ((segment nodeExp j u).scale n)

/-- |x| = 2^e × m with m in [1, 2): (e, m) of a nonzero number (R134). -/
def normalise : Val → Int × Val
  | .num _ mag e => (((Nat.log2 mag : Int) + e), .num false mag (-(Nat.log2 mag : Int)))
  | _ => (0, Val.ofInt 1)

/-- e + log2 m before rounding. -/
def log2Exact (x : Val) : Val :=
  let (e, m) := normalise x
  let f := (m.sub (Val.ofInt 1)).scale 6
  let j := f.floorInt.toNat
  (Val.ofInt e).add (segment nodeLog j (f.sub (Val.ofInt j)))

def rcpNative (x : Val) : Val :=
  let (e, m) := normalise x
  let f := (m.sub (Val.ofInt 1)).scale 6
  let j := f.floorInt.toNat
  let p := segment nodeRcp j (f.sub (Val.ofInt j))
  let r := round32 ((p.mul ((Val.ofInt 2).sub (m.mul p))).scale (-e))
  if x.neg then r.negate else r

/-- x = 4^k × m with m in [1, 4). -/
def rsqrtNative (x : Val) : Val :=
  let (e, m1) := normalise x
  let k := e / 2
  let odd := e % 2 != 0
  let m := if odd then m1.scale 1 else m1
  let f := if odd then (m.sub (Val.ofInt 2)).scale 5 else (m.sub (Val.ofInt 1)).scale 6
  let j := f.floorInt.toNat
  let node (i : Nat) : Nat := if odd then nodeRsqrt (128 + i) 64 else nodeRsqrt (128 + i) 128
  let p := segment node j (f.sub (Val.ofInt j))
  round32 (((p.mul ((Val.ofInt 3).sub (m.mul (p.mul p)))).scale (-1)).scale (-k))

/-- Built-in functions, by SFU opcode (Table 5.1). -/
inductive Fn where
  | exp | exp2 | log | log2 | rcp | rsqrt
  deriving DecidableEq, Repr

def Fn.code : Fn → Nat
  | .exp => 1 | .exp2 => 2 | .log => 3 | .log2 => 4 | .rcp => 5 | .rsqrt => 6

/-- Table 5.3: the special inputs, in both profiles. -/
def specialFn (f : Fn) (x : Val) : Option Val :=
  match x with
  | .nan => some .nan
  | .inf n => some (match f with
    | .exp | .exp2 => if n then Val.zero else .inf false
    | .log | .log2 => if n then .nan else .inf false
    | .rcp => .num n 0 0
    | .rsqrt => if n then .nan else Val.zero)
  | .num n m _ =>
    if m = 0 then some (match f with
      | .exp | .exp2 => Val.ofInt 1
      | .log | .log2 => .inf true
      | .rcp | .rsqrt => .inf n)
    else if n then match f with
      | .log | .log2 | .rsqrt => some .nan
      | _ => none
    else none

/-- The native result of a non-special input (R136). -/
def nativeFn (f : Fn) (x : Val) : Val :=
  match f with
  | .exp2 => exp2Native x
  | .exp => exp2Native (x.mul cLog2e)
  | .log2 => round32 (log2Exact x)
  | .log => round32 (cLn2.mul (log2Exact x))
  | .rcp => rcpNative x
  | .rsqrt => rsqrtNative x

/-! ### Profile L (R139, R141) -/

/-- The function that profile L's pieces follow, for z the offset above 1 or the fraction, on the grid 2^-64; EXP and
LOG go by those of EXP2 and LOG2 (R134, R139). -/
def lTrue (f : Fn) : Nat → Nat :=
  match f with
  | .exp | .exp2 => fxExp2
  | .log | .log2 => fxLog2
  | .rcp => fxRcp
  | .rsqrt => fxRsqrt

/-- How far profile L's evaluation lies from its function at most, on the grid 2^-64: with the rounding toward zero of the
result, the bounds of Table 5.4 (log 12). -/
def lTol : Fn → Nat
  | .exp | .exp2 => 6 * 2 ^ 41
  | .log | .log2 => 5 * 2 ^ 41
  | .rcp | .rsqrt => 6 * 2 ^ 40

/-- Code of the function whose tables a built-in uses. -/
def Fn.table : Fn → Nat
  | .exp | .exp2 => 2 | .log | .log2 => 4 | .rcp => 5 | .rsqrt => 6

/-- Left end of segment j, from the tables of INFO page 1: a 32-bit fraction within 2^-12 of the function (log 12). -/
def lNode (f : Fn) (j : Nat) : Nat :=
  let t := lTrue f (j * 2 ^ 64 / 48)
  clampNat (t - 2 ^ 52) (t + 2 ^ 52) ((Config.lTable (Config.lWhere f.table j)).toNat * 2 ^ 33)

/-- The linear piece of segment j = floor(48 z) (R139). -/
def lPiece (f : Fn) (z : Nat) : Nat :=
  let a := 48 * z
  let u := a % 2 ^ 64
  (lNode f (a / 2 ^ 64) * (2 ^ 64 - u) + lNode f (a / 2 ^ 64 + 1) * u) / 2 ^ 64

/-- Piece and correction step, within the bound. The correction keeps order (R141); else it is free (log 12). -/
def lEval (f : Fn) (z : Nat) : Nat :=
  let t := lTrue f z
  clampNat (t - lTol f) (t + lTol f) (monoFree (Config.lCorrect f.table) 66 1 0 (2 ^ 66) (lPiece f z))

/-- lEval between the bounds that order across the binade seams sets (R140, R141). -/
def lSeam (f : Fn) (lo hi z : Nat) : Nat := clampNat lo hi (lEval f z)

def fracOf (v : Val) : Nat := (v.scale 64).floorInt.toNat

def exp2L (t : Val) : Val :=
  let n := t.floorInt
  let e0 := lEval .exp2 0
  if 400 < n then rtz32 (.num false 1 400)
  else if n < -400 then Val.zero
  else rtz32 (.num false (lSeam .exp2 e0 (2 * e0) (fracOf (t.sub (Val.ofInt n)))) (n - 64))

/-- e + log2 m before the last rounding. -/
def log2L (x : Val) : Val :=
  let (e, m) := normalise x
  let p0 := lEval .log2 0
  (Val.ofInt e).add (.num false (lSeam .log2 p0 (p0 + 2 ^ 64) (fracOf (m.sub (Val.ofInt 1)))) (-64))

def rcpL (x : Val) : Val :=
  let (e, m) := normalise x
  let r0 := lEval .rcp 0
  rtz32 (.num x.neg (lSeam .rcp ((r0 + 1) / 2) r0 (fracOf (m.sub (Val.ofInt 1)))) (-64 - e))

/-- The result for m in [1, 2): 1 at 1, c at the last FP32 value below 2, and between them above c, from which the two
facts of R141 follow. -/
def rsqrtL1 (m : Val) : Val :=
  let z := fracOf (m.sub (Val.ofInt 1))
  if z = 0 then Val.ofInt 1
  else if z = 2 ^ 64 - 2 ^ 41 then dec32 0x3F3504F3
  else rtz32 (.num false (lSeam .rsqrt (0xB504F4 * 2 ^ 40) (2 ^ 64) z) (-64))

/-- On [2, 4) the result at m/2 times c (R139). -/
def rsqrtL (x : Val) : Val :=
  let (e, m) := normalise x
  rtz32 ((if e % 2 != 0 then (rsqrtL1 m).mul (dec32 0x3F3504F3) else rsqrtL1 m).scale (-(e / 2)))

/-- Profile L on an input that is not special: reduction as in the native profile, one linear piece of 48, its correction,
and the result rounded toward zero (R139). -/
def profileLFn (f : Fn) (x : Val) : Val :=
  match f with
  | .exp2 => exp2L x
  | .exp => exp2L (x.mul cLog2e)
  | .log2 => rtz32 (log2L x)
  | .log => rtz32 (cLn2.mul (log2L x))
  | .rcp => rcpL x
  | .rsqrt => rsqrtL x

/-- A built-in function under the profile in force (R132, R137). -/
def builtin (l : Bool) (f : Fn) (x : Val) : Val :=
  match specialFn f x with
  | some r => r
  | none => if l then profileLFn f x else nativeFn f x

/-! ## Rudiment steps (R142) -/

/-- Constants of RRED on the grid 2^-96, by MODE 1 to 3. -/
def rredConst (mode : Nat) : Val :=
  if mode = 1 then .num false 114302077158074026402637675937 (-96)
  else if mode = 2 then .num false 12609553696233175933233255924 (-96)
  else .num false 50438214784932703732933023698 (-96)

/-- Nearest integer with ties to even, or the floor. -/
def Val.intOf (near : Bool) (v : Val) : Int := if near then v.rneInt else v.floorInt

def regSet (r : List Nat) (i v : Nat) : List Nat := r.set (i % 8) (v % 2 ^ 32)

/-- One step on the registers T0 to T7 (Table 5.7); none for END. -/
def rudStep (table : List Nat) (w : Nat) (r : List Nat) : Option (List Nat) :=
  let dst := fld w 57 55
  let sc := fld w 48 46
  let mode := fld w 45 44
  let imm := fld w 31 0
  let ra := r.getD (fld w 54 52) 0
  let rb := r.getD (fld w 51 49) 0
  let rc := r.getD sc 0
  let a := dec32 ra
  let b := dec32 rb
  match fld w 63 58 with
  | 0x01 =>
    let t := a.mul (if mode = 0 then dec32 imm else rredConst mode)
    let big := t.isNan || t.isInf || !(t.abs.lt (.num false 1 31))
    if big then some (regSet (regSet r dst 0x7FC00000) sc 0)
    else
      let n := t.intOf (bitAt w 32)
      some (regSet (regSet r dst (enc32 (t.sub (Val.ofInt n)))) sc (pattern 32 n))
  | 0x02 =>
    let k := fld imm 3 0
    let tb := fld imm 27 16
    let x := a.scale k
    let i0 : Int := match a with | .nan => 0 | .inf n => if n then 0 else 2 ^ k - 1 | _ => x.floorInt
    let i : Nat := if i0 < 0 then 0 else min i0.toNat (2 ^ k - 1)
    let wd := mode + 1
    let r1 := (List.range wd).foldl (fun r q => regSet r (dst + q) (table.getD (tb + wd * i + q) 0)) r
    some (regSet r1 sc (enc32 (x.sub (Val.ofInt i))))
  | 0x03 =>
    let mb := if mode % 2 = 1 then dec32 imm else b
    let mc := if mode / 2 % 2 = 1 then dec32 imm else dec32 rc
    some (regSet r dst (enc32 ((a.mul mb).add mc)))
  | 0x04 =>
    let y := if mode = 0 then a.mul ((Val.ofInt 2).sub (b.mul a))
      else (a.mul ((Val.ofInt 3).sub (b.mul (a.mul a)))).scale (-1)
    some (regSet r dst (enc32 y))
  | 0x05 =>
    let i := dec32 imm
    let cond := if mode = 0 then a.lt i else if mode = 1 then a.le i else if mode = 2 then a.eqv i else a.isNan
    some (regSet r dst (if cond then rc else rb))
  | 0x06 =>
    let n := signed 32 rb
    let n : Int := if n < -400 then -400 else if 400 < n then 400 else n
    some (regSet r dst (enc32 (a.scale n)))
  | 0x07 =>
    match a with
    | .num s m e =>
      if m = 0 then some (regSet (regSet r dst ra) sc 0)
      else
        let l := Nat.log2 m
        some (regSet (regSet r dst (enc32 (.num s m (-(l : Int))))) sc (pattern 32 (e + (l : Int))))
    | _ => some (regSet (regSet r dst ra) sc 0)
  | 0x08 =>
    if a.isNan then some (regSet r dst 0x7FC00000)
    else
      let lo := if a.lt b then b else a
      let c := dec32 rc
      some (regSet r dst (enc32 (if c.lt lo then c else lo)))
  | _ => none

/-- Run a straight-line rudiment to its END; T0 is the result. -/
def rudRun (table : List Nat) : List Nat → List Nat → Nat
  | [], r => r.headD 0
  | w :: ws, r => match rudStep table w r with
    | some r' => rudRun table ws r'
    | none => r.headD 0

/-! ## The library (R507, Table 5.9) -/

/-- The function of a library rudiment on a finite input, and how far its FP32 result may lie from it. -/
def libBound (id : Nat) (x : Val) : Val × Val :=
  let four (v : Val) : Val × Val := (v, (ulpOf v).scale 2)
  match id with
  | 1 => four (sigmoidOf x x)
  | 2 =>
    let t := ((x.add ((x.mul (x.mul x)).mul (.num false 824846161255922600 (-64)))).mul (.num false 14718372278684353158 (-64))).scale 1
    let v := sigmoidOf x t
    if x.lt (Val.ofInt (-3)) then (v, .num false 1 (-30)) else four v
  | 3 => four (softplusOf x)
  | 4 => (sinOf x 0, .num false 1 (-22))
  | _ => (sinOf x 1, .num false 1 (-22))

/-- What Unjor's library gives for an input whose steps end in y: Table 5.9's special results, and a y within its accuracy.
The steps are the part's own (log 13). -/
def libResult (id : Nat) (x y : Val) : Val :=
  let big := x.isInf || (Val.num false 1 24).lt x.abs
  if x.isNan then y
  else if id = 4 || id = 5 then (if big then .nan else let b := libBound id x; within b.1 b.2 y)
  else if x.isInf then (if !x.neg then .inf false else if id = 3 then Val.zero else .num true 0 0)
  else let b := libBound id x; within b.1 b.2 y

end Sys2Proof.Machine
end

