-- ==== Sys2Proof/Machine/Operands.lean ====
section
/-!
DEFINITION. Every operand form of an engine op: stream fields (Table 2.5), dimensions and extents (Table 3.13, R74,
R79, R89), element addresses with sub-byte packing and WRAP (R19, R79), scale entries (R62), padding (R90), the
address range that a stream reaches (R81, R88), and the writing of elements (R92).
-/
namespace Sys2Proof.Machine

/-! ## Op fields by stream: 0 A, 1 B, 2 C, 3 X -/

def opFmtCode (w : List Nat) (i : Nat) : Nat := fld (w.getD 0 0) (16 + 5 * i) (12 + 5 * i)
def opFmt (w : List Nat) (i : Nat) : Fmt := fmtOf (opFmtCode w i)
def opBuf (w : List Nat) (i : Nat) : Nat := fld (w.getD 1 0) (10 * i + 9) (10 * i)
def opSbuf (w : List Nat) (i : Nat) : Nat := fld (w.getD 6 0) (10 * i + 9) (10 * i)
def opAcc (w : List Nat) : Bool := bitAt (w.getD 0 0) 35
def opShape (w : List Nat) : Nat := fld (w.getD 0 0) 34 32
def opPlist (w : List Nat) : Nat := fld (w.getD 0 0) 63 56
def opPro (w : List Nat) : Nat := fld (w.getD 4 0) 7 0
def opEpi (w : List Nat) : Nat := fld (w.getD 4 0) 15 8
def noBuf : Nat := 0x3FF

/-- Is the op an attention op (R150). -/
def opAttn (w : List Nat) : Bool := opEngine w == 1 && opCode w == 0x20

/-- Is the op a VU reduction of each row to one value (Table 3.13, log 9). -/
def opReduces (w : List Nat) : Bool :=
  opEngine w == 2 && (match Config.vuOpcode (opCode w) with
    | some .rowMax | some .rowSum => true
    | _ => false)

/-- The dimensions that a stream spans (Table 3.13): 1 M, 2 N, 3 K. -/
def spans (w : List Nat) (i : Nat) : List Nat :=
  match opEngine w with
  | 1 => if i = 0 then [1, 3] else if i = 1 then [3, 2] else if i = 3 then (if opAttn w then [2, 3] else [1, 2])
    else if opAttn w then [] else [1, 2]
  | 2 => if i = 2 && opReduces w then [1] else [1, 2]
  | 3 => if i = 0 || i = 2 then [1, 2] else []
  | 4 => if i = 0 then [1, 2] else if i = 2 then [1] else []
  | 6 => if i = 0 || i = 2 then [1, 2] else []
  | _ => []

/-! ## Streams -/

/-- A stream of an op as its elements are addressed: format in its buffer, buffers, pitch, list offset and the
two dimensions (0: none). -/
structure Strm where
  i : Nat
  f : Fmt
  buf : Buf
  sbuf : Option Buf
  pitch : Nat
  off : Int
  rowD : Nat
  colD : Nat
  pad : Nat
  deriving DecidableEq, Repr

def bufOpt (k : Core) (i : Nat) : Option Buf := if i = noBuf then none else some (bufOf k i)

/-- The contiguous dimension of a stream (R74). -/
def contigDim (w : List Nat) (d : Desc) (i : Nat) : Nat :=
  ((spans w i).filter (· != d.rows.getD i 0)).headD 0

def strmOf (k : Core) (r : Run) (d : Desc) (i : Nat) (f : Fmt) : Strm :=
  let w := r.op.w
  { i := i, f := f, buf := bufOf k (opBuf w i), sbuf := bufOpt k (opSbuf w i), pitch := d.pitch.getD i 0,
    off := signed 64 (r.offs.getD i 0), rowD := d.rows.getD i 0, colD := contigDim w d i, pad := d.pad.getD i 0 }

/-- Coordinate at which the tile begins along a dimension, and elements that are in bound there (R79, R89). -/
def dimBase (d : Desc) (idx : List Nat) (dim : Nat) : Nat :=
  match d.carrier dim with
  | some l => idx.getD l 0 * (d.level l).step
  | none => 0
def dimLive (d : Desc) (bounds idx : List Nat) (dim : Nat) : Nat :=
  match d.carrier dim with
  | some l => min (d.level l).step (bounds.getD l 0 - idx.getD l 0 * (d.level l).step)
  | none => 1
/-- Lanes of a tile along a dimension. -/
def dimLanes (d : Desc) (dim : Nat) : Nat :=
  match d.carrier dim with
  | some l => (d.level l).step
  | none => 1

/-- Byte offset of the first element of the tile from BASE, before any WRAP (R79). -/
def Strm.tileOff (t : Strm) (d : Desc) (idx : List Nat) : Int :=
  (List.range 6).foldl (fun (a : Int) l => a + (idx.getD l 0 : Int) * (d.level l).stride.getD t.i 0) t.off

/-- Bit offset from BASE of element (r, c) of the tile. -/
def Strm.bit (t : Strm) (d : Desc) (idx : List Nat) (r c : Nat) : Int :=
  8 * (t.tileOff d idx + ((r * t.pitch : Nat) : Int)) + ((c * t.f.bits : Nat) : Int)

/-- Bit offset of the tile's element at x along dimension p and y along the stream's other dimension. -/
def Strm.bitOf (t : Strm) (d : Desc) (idx : List Nat) (p x y : Nat) : Int :=
  if t.rowD = p then t.bit d idx x y else t.bit d idx y x

/-- Level indices, and offset within the tile, of coordinate x along a dimension (R79). -/
def atCoord (d : Desc) (idx : List Nat) (dim x : Nat) : List Nat × Nat :=
  match d.carrier dim with
  | some l => (idx.set l (x / (d.level l).step), x % (d.level l).step)
  | none => (idx, x)

/-- Bit offset of the element at coordinate x along dimension p and y along the stream's other dimension; `idx` gives the
levels that carry neither. -/
def Strm.bitAt (t : Strm) (d : Desc) (idx : List Nat) (p x y : Nat) : Int :=
  let (i, a) := atCoord d idx p x
  let (j, b) := atCoord d i (if t.rowD = p then t.colD else t.rowD) y
  t.bitOf d j p a b

/-- Store addresses of the bytes that hold a field of n bits at a bit offset. -/
def bitAddrs (b : Buf) (bit : Int) (n : Nat) : List Nat :=
  let first := bit / 8
  let cnt := ((bit + ((n : Nat) : Int) - 1) / 8 - first + 1).toNat
  (List.range cnt).map (fun (i : Nat) => b.addr (first + (i : Int)))

/-- The row of an element: its byte offset over the stream's pitch (R115, log 23). -/
def Strm.row (t : Strm) (bit : Int) : Nat := (bit / 8 / (t.pitch : Int)).toNat

/-! ## Elements -/

/-- An element on its way: value, code where a block rule fixed it, bytes read, flags raised. -/
structure Elem where
  v : Val
  code : Nat
  rd : List Nat
  fl : Nat
  deriving DecidableEq, Repr

def Elem.zero : Elem := ⟨Val.zero, 0, [], 0⟩

/-- Bits of memory at store addresses. -/
def bitsAt (m : Mem) (as : List Nat) (bit : Int) (n : Nat) : Nat :=
  (leNat (as.map m.read) >>> (bit % 8).toNat) % 2 ^ n

/-- Addresses of the scale entry of an element (R62); of a scale buffer with WRAP, modulo its SIZE as R79 has it of an element
(log 115, DESIGN CHOICE). -/
def Strm.scaleAddrs (t : Strm) (bit : Int) : List Nat :=
  match t.sbuf with
  | none => []
  | some b =>
    let o := bit / 8
    let e := o / (t.f.b32 : Int) * (t.f.scaleBytes : Int)
    (List.range t.f.scaleBytes).map (fun (i : Nat) => b.addr (e + (i : Int)))

/-- Read the element at a bit offset of its buffer, under its scale entry. -/
def Strm.read (t : Strm) (m : Mem) (bit : Int) : Elem :=
  let as := bitAddrs t.buf bit t.f.bits
  let code := bitsAt m as bit t.f.bits
  if t.f.scaled then
    let sa := t.scaleAddrs bit
    let ent := leNat (sa.map m.read)
    let v := scaledVal t.f code ent
    ⟨v, code, as ++ sa, (if v.isNan then fNanSeen else 0) ||| (if scaleNan t.f ent then fBlockNan else 0)⟩
  else
    let v := elemVal t.f code
    ⟨v, code, as, if v.isNan then fNanSeen else 0⟩

/-- Round a value once to an unscaled format; a block-scaled format leaves an exactly widened value (R113). -/
def Elem.toFmt (e : Elem) (f : Fmt) (v : Val) : Elem :=
  if f.scaled then { e with v := v }
  else
    let (c, fl) := convertTo f v
    { e with v := elemVal f c, code := c, fl := e.fl ||| fl }

/-- DEQUANT (R114): rounded once to f, or infinity with WIDE_OVF beyond the FP32 range (R25). -/
def Elem.dequant (e : Elem) (f : Fmt) : Elem :=
  let (w, fl) := widen32 e.v
  let v := if fl = 0 then e.v else w
  let e' := e.toFmt f v
  { e' with fl := e'.fl ||| fl }

/-- Widen to FP32 (R25). -/
def Elem.widen (e : Elem) : Elem :=
  let (v, fl) := widen32 e.v
  { e with v := v, fl := e.fl ||| fl }

/-! ## Writing elements -/

/-- Set a field of n bits at a bit offset of a buffer, in a table of bytes with the bits that they set (R92). -/
def setField (b : Buf) (t : Table (Byte × Byte)) (bit : Int) (n code : Nat) : Table (Byte × Byte) :=
  let as := bitAddrs b bit n
  let sh := (bit % 8).toNat
  let bytes := (natLe as.length ((code % 2 ^ n) <<< sh)).zip (natLe as.length ((2 ^ n - 1) <<< sh))
  (as.zip bytes).foldl (fun t e =>
    let o := (Table.find t e.1).getD (0, 0)
    Table.put t e.1 ((o.1 &&& ~~~e.2.2) ||| e.2.1, o.2 ||| e.2.2)) t

/-- The bytes of fields (bit offset, bits, code) of a buffer; other bits of shared bytes keep their values (R92). -/
def packFields (b : Buf) (fs : List (Int × Nat × Nat)) : List WByte :=
  (fs.foldl (fun t f => setField b t f.1 f.2.1 f.2.2) []).map (fun e => ⟨e.1, e.2.1, e.2.2, false⟩)

/-- Whole bytes at addresses, for a little-endian number. -/
def putBytes (as : List Nat) (v : Nat) (bad : Bool) : List WByte :=
  (as.zip (natLe as.length v)).map (fun e => ⟨e.1, e.2, 0xFF#8, bad⟩)

/-! ## The range that a stream reaches (R81, R88) -/

/-- Least and greatest bit offset that one level adds, beside the elements of its tile; `unit` is the bits between
elements along the level's dimension, 0 where the stream does not span it. -/
def levelRange (n step bound : Nat) (stride : Int) (unit : Nat) : Int × Int :=
  let cand : List Nat := [0, n - 2, n - 1]
  let pts := cand.flatMap (fun (i : Nat) =>
    let o : Int := 8 * stride * (i : Int)
    [o, o + (((min step (bound - i * step) - 1) * unit : Nat) : Int)])
  (pts.foldl min 0 |> fun lo => if n = 0 then 0 else lo, pts.foldl max 0 |> fun hi => if n = 0 then 0 else hi)

/-- Least and greatest bit offsets of a stream's elements with the given bounds; none when the nest has no cell.
Levels at positions `from_` and beyond of `order` are left out (a tile alone). -/
def streamSpan (w : List Nat) (d : Desc) (bounds : List Nat) (i : Nat) (f : Fmt) (off : Int) (levels : List Nat) : Option (Int × Int) :=
  let n (l : Nat) : Nat := iters (bounds.getD l 1) (d.level l).step
  if (List.range 6).any (fun l => n l == 0) then none
  else
    let rowD := d.rows.getD i 0
    let colD := contigDim w d i
    let unit (l : Nat) : Nat :=
      let dim := (d.level l).dim
      if dim = 0 then 0 else if dim = rowD then 8 * d.pitch.getD i 0 else if dim = colD then f.bits else 0
    let z := (List.range 6).foldl (fun (a : Int × Int) l =>
      let lv := d.level l
      let k := if levels.contains l then n l else 1
      let x := levelRange k lv.step (bounds.getD l 1) (lv.stride.getD i 0) (unit l)
      (a.1 + x.1, a.2 + x.2)) (8 * off, 8 * off)
    some (z.1, z.2 + ((f.bits - 1 : Nat) : Int))

/-- Do the bits lo to hi lie in a buffer. -/
def Buf.covers (b : Buf) (lo hi : Int) : Bool := decide (0 ≤ lo) && decide (hi / 8 < (b.size : Int))

/-- Do the scale entries of elements in bits lo to hi lie in their buffer (R62). -/
def Buf.coversScale (b : Buf) (f : Fmt) (lo hi : Int) : Bool :=
  decide (0 ≤ lo) && decide ((hi / 8 / (f.b32 : Int) + 1) * (f.scaleBytes : Int) ≤ (b.size : Int))

/-- Streams that an op reads or writes by R79: used ones with a buffer (Table 3.13). -/
def usedStreams (w : List Nat) : List Nat :=
  match opEngine w with
  | 1 => if opAttn w then [0, 1, 3] else [0, 1, 2, 3]
  | 2 => match Config.vuOpcode (opCode w) with
    | some .fma => [0, 1, 2, 3]
    | some .add | some .sub | some .mul => [0, 1, 2]
    | _ => [0, 2]
  | 3 | 4 | 6 => [0, 2]
  | _ => []

end Sys2Proof.Machine
end

