-- ==== Sys2Proof/Machine/Flags.lean ====
section
/-!
DEFINITION. The arithmetic flag word of a core (R28): the flags that elements raise, their collection, and the OR
over the cores that STEP_RUN returns (Table 14.2). Single flags are computed where their values are made
(Float.lean, Operands.lean).
-/
namespace Sys2Proof.Machine

/-- Flags of a list of elements. -/
def flagsOf (es : List Elem) : Nat := es.foldl (fun a e => a ||| e.fl) 0

/-- Bytes that a list of elements read. -/
def readsOf (es : List Elem) : List Nat := es.flatMap Elem.rd

/-- A produced NaN sets NAN_SEEN (Table 1.5). -/
def nanFlag (v : Val) : Nat := if v.isNan then fNanSeen else 0

/-- OR flags into a core's word (R28). -/
def Core.raise (k : Core) (fl : Nat) : Core := { k with flags := k.flags ||| fl }
def State.raise (s : State) (c fl : Nat) : State := s.updCore c (fun k => k.raise fl)

/-- The OR of the participating cores' words (Table 14.2). -/
def State.allFlags (s : State) : Nat := s.participants.foldl (fun a c => a ||| (s.core c).flags) 0

/-- Clear every core's word when an epoch begins (R28). -/
def State.clearFlags (s : State) : State :=
  (List.range 64).foldl (fun s c => if (s.core c).flags = 0 then s else s.updCore c (fun k => { k with flags := 0 })) s

end Sys2Proof.Machine
end

