-- ==== Sys2Proof/Machine/Chains.lean ====
section
/-!
DEFINITION. Prologue and epilogue chains (R104 to R127): stages on operand elements and on finished tiles.
-/
namespace Sys2Proof.Machine

/-- A stage word (Table 4.2). -/
structure Stage where
  code : Nat
  fmt : Nat
  buf1 : Nat
  buf2 : Nat
  param : Nat
  deriving DecidableEq, Repr

def stageOf (w : Nat) : Stage := ⟨fld w 7 0, fld w 43 39, fld w 63 54, fld w 53 44, fld w 31 8⟩

/-- A chain table entry (Table 4.1). -/
structure Chain where
  kind : Nat
  stream : Nat
  src : Nat
  stages : List Stage
  nrow : Nat
  eps : Nat
  deriving DecidableEq, Repr

def chainOf (w : List Nat) : Chain :=
  let h := w.getD 0 0
  let q := w.getD 7 0
  ⟨fld h 0 0, (if fld h 2 1 = 2 then 3 else fld h 2 1), fld h 23 19,
   (List.range (min 6 (fld h 18 16))).map (fun i => stageOf (w.getD (1 + i) 0)), fld q 63 32, fld q 31 0⟩

/-- The chain that an op names: 0 is none. -/
def chainFor (k : Core) (i : Nat) : Option Chain := if i = 0 then none else some (chainOf (chainWords k i))

/-- First and second buffers that a stage must name. -/
def stageBufs (s : Stage) : List Nat :=
  match s.code with
  | 0x03 => [s.buf1, s.buf2]
  | 0x04 | 0x10 | 0x14 | 0x15 | 0x20 | 0x21 => [s.buf1]
  | 0x13 => if (fmtOf s.fmt).scaled then [s.buf1] else []
  | _ => []

/-- Buffers that a stage names, with the ones that it may leave out. -/
def stageNames (s : Stage) : List Nat :=
  stageBufs s ++ (if (s.code == 0x20 || s.code == 0x21) && s.buf2 != 0x3FF then [s.buf2] else [])

def hasStage (ch : Option Chain) (code : Nat) : Bool :=
  match ch with
  | some c => c.stages.any (fun s => s.code == code)
  | none => false

/-! ## Streams as chains leave them -/

/-- The descriptor as a stream sees it after SWIGLU: half the columns (R120). -/
def halveN (d : Desc) : Desc :=
  { d with levels := d.levels.map (fun l => if l.dim = 2 then { l with bound := l.bound / 2, max := l.max / 2, step := l.step / 2 } else l) }

/-- After n SWIGLU stages. -/
def halves : Nat → Desc → Desc
  | 0, d => d
  | n + 1, d => halves n (halveN d)

/-- SWIGLU stages of an epilogue before the stage that reads or writes stream i: all of them for C, those before the
first RESIDUAL for X. -/
def swiglus (ch : Option Chain) (i : Nat) : Nat :=
  let l := ((ch.map Chain.stages).getD []).map Stage.code
  ((if i = 3 then l.takeWhile (· != 0x11) else l).filter (· == 0x12)).length

/-- Streams that an op addresses by R79: those of its engine and opcode that have a buffer, X where a RESIDUAL stage
reads it. -/
def vStreams (k : Core) (w : List Nat) : List Nat :=
  let res := hasStage (chainFor k (opEpi w)) 0x11
  if opEngine w = 1 then
    if opAttn w then [0, 1, 3]
    else [0, 1] ++ (if opBuf w 2 = noBuf then [] else [2]) ++ (if res then [3] else [])
  else (usedStreams w ++ (if res && !(usedStreams w).contains 3 then [3] else [])).filter (fun i => opBuf w i != noBuf)

/-- The format in which a stream stands in its buffer: a prologue's SRC_FMT (R106), or for the keys and values of an
attention op the region's, by its header (R171; empty where it is not open). -/
def vFmt (hdr : List Nat) (k : Core) (w : List Nat) (i : Nat) : Fmt :=
  let region := opAttn w && !hdr.isEmpty
  match (chainFor k (opPro w)).filter (fun ch => ch.stream == i) with
  | some ch => fmtOf ch.src
  | none =>
    if region && i = 1 then fmtOf (fld (hdr.getD 0 0) 4 0)
    else if region && i = 3 then fmtOf (fld (hdr.getD 0 0) 9 5)
    else opFmt w i

/-- The descriptor by which stream i of an op is addressed. -/
def vDesc (k : Core) (w : List Nat) (d : Desc) (i : Nat) : Desc :=
  if i = 2 || (i = 3 && (opEngine w == 1 || !(usedStreams w).contains 3)) then halves (swiglus (chainFor k (opEpi w)) i) d else d

/-- Actual bounds as a stream with halved columns sees them: N's bound shrinks as its MAX does (R120). -/
def halfBounds (d dv : Desc) (bounds : List Nat) : List Nat :=
  (List.range 6).map (fun l =>
    if (dv.level l).dim = 2 && (dv.level l).step != (d.level l).step then
      bounds.getD l 1 * (dv.level l).step / (d.level l).step
    else bounds.getD l 1)

/-! ## Statistics and normalisation -/

/-- Read an FP32X slot of a statistic buffer (R115). -/
def slotAddrs (b : Buf) (nslot r j : Nat) : List Nat :=
  (List.range 8).map (fun (i : Nat) => b.addr ((8 * (nslot * r + j) + i : Nat) : Int))

/-- Merge the slots of a row by the pairwise tree (R126). -/
def mergeSlots (xs : List Val) : Val := rowTree (log2Up xs.length) xs

/-- g and the merged statistic of a row under RMSNORM (R115): round32(rsqrt(f) × 2^-k). -/
def rmsScale (l : Bool) (s : Val) (n eps : Nat) : Val :=
  let t := roundX ((divX s n).add (dec32 eps))
  let k : Int := match t with
    | .num _ m e => if m = 0 then 0 else ((Nat.log2 m : Int) + e) / 2
    | _ => 0
  round32 ((builtin l .rsqrt (t.scale (-2 * k))).scale (-k))

/-! ## Prologues (R113 to R117) -/

/-- Context of a chain: core, profile, run, descriptor, level indices of the cell. -/
structure EpiCtx where
  k : Core
  l : Bool
  r : Run
  d : Desc
  idx : List Nat

/-- Is coordinate x along a dimension below the bound of the level that carries it (R89). -/
def inBound (d : Desc) (bounds : List Nat) (dim x : Nat) : Bool :=
  match d.carrier dim with
  | some l => decide (x < bounds.getD l 0)
  | none => x == 0

/-- The element at coordinates x, y of a stream along its row and contiguous dimensions, after the given stages, last
stage first. ROTARY reads its partner through the earlier stages, wherever its own step places it; a partner out of
bound is the padding value (R89, R90, R117, log 117). -/
def proGo (z : EpiCtx) (t : Strm) (ch : Chain) : List Stage → Nat → Nat → Elem
  | [], x, y => t.read z.k.store (t.bitAt z.d z.idx t.rowD x y)
  | s :: rest, x, y =>
    let k := z.k
    let e := proGo z t ch rest x y
    let f := fmtOf s.fmt
    let row := t.row (t.bitAt z.d z.idx t.rowD x y)
    if s.code = 0x02 then e.dequant f
    else if s.code = 0x03 then
      let e := e.widen
      let nslot := fld s.param 9 0 + 1
      let sb := bufOf k s.buf1
      let gb := bufOf k s.buf2
      let as := (List.range nslot).map (slotAddrs sb nslot row)
      let sl := as.map (fun a => decX (leNat (a.map k.store.read)))
      let ga := [gb.addr ((2 * y : Nat) : Int), gb.addr ((2 * y + 1 : Nat) : Int)]
      let g := rmsScale z.l (mergeSlots sl) ch.nrow ch.eps
      let u := round32 (e.v.mul g)
      let v := round32 (u.mul (decBf (leNat (ga.map k.store.read))))
      let e' := e.toFmt f v
      { e' with rd := e'.rd ++ as.flatMap id ++ ga }
    else if s.code = 0x04 then
      let e := e.widen
      let d := headDim (fld s.param 2 0)
      let inter := bitAt s.param 23
      let j := y % d
      let first := if inter then j % 2 == 0 else decide (j < d / 2)
      let i := if inter then j / 2 else j % (d / 2)
      let delta := if inter then 1 else d / 2
      let y' := if first then y + delta else y - delta
      let p := if inBound z.d z.r.bounds t.colD y' then (proGo z t ch rest x y').widen
        else { Elem.zero with v := (widen32 (padVal (opFmt z.r.op.w t.i) t.pad)).1 }
      let tb := bufOf k s.buf1
      let base := 4 * d * row + 8 * i
      let as := (List.range 8).map (fun (n : Nat) => tb.addr ((base + n : Nat) : Int))
      let bytes := as.map k.store.read
      let cs := dec32 (leNat (bytes.take 4))
      let sn := dec32 (leNat (bytes.drop 4))
      let v := if first then round32 ((round32 (e.v.mul cs)).sub (round32 (p.v.mul sn)))
        else round32 ((round32 (e.v.mul cs)).add (round32 (p.v.mul sn)))
      let e' := e.toFmt f v
      { e' with rd := e'.rd ++ p.rd ++ as, fl := e'.fl ||| p.fl }
    else e

/-- The operand element of stream i at coordinates x along dimension p and y along its other dimension, through the
op's prologue if that names the stream. -/
def EpiCtx.operandAt (z : EpiCtx) (i : Nat) (f : Fmt) (p x y : Nat) : Elem :=
  match (chainFor z.k (opPro z.r.op.w)).filter (fun ch => ch.stream == i) with
  | some ch =>
    let t := strmOf z.k z.r z.d i (fmtOf ch.src)
    if t.rowD = p then proGo z t ch ch.stages.reverse x y else proGo z t ch ch.stages.reverse y x
  | none =>
    let t := strmOf z.k z.r z.d i f
    t.read z.k.store (t.bitAt z.d z.idx p x y)

/-- The operand element of stream i at x along dimension p and y along its dimension q, both counted within the tile. -/
def operand (k : Core) (l : Bool) (r : Run) (d : Desc) (idx : List Nat) (i : Nat) (f : Fmt) (p q x y : Nat) : Elem :=
  EpiCtx.operandAt ⟨k, l, r, d, idx⟩ i f p (dimBase d idx p + x) (dimBase d idx q + y)

/-! ## Epilogues (R118 to R123) -/

/-- A finished tile: coordinates of its first row and column, and its in-bound elements by rows; of the columns, the
first that is the tile's own and how many are (a QUANT block may reach into the next tile); how many SWIGLU stages have
halved the columns; what it writes beside stream C; and its ROWSTAT leaves. -/
structure OTile where
  row0 : Nat
  col0 : Nat
  rows : List (List Elem)
  own : Nat × Nat
  swi : Nat
  effs : List Eff
  leaves : List Leaf
  deriving DecidableEq, Repr

def mapCols (f : Nat → Nat → Elem → Elem) (rows : List (List Elem)) : List (List Elem) :=
  rows.mapIdx (fun r es => es.mapIdx (fun c e => f r c e))

/-- Bit offset of element (r, c) of a tile in a buffer at stream C's addresses. -/
def EpiCtx.bitC (z : EpiCtx) (t : OTile) (f : Fmt) (r c : Nat) : Int :=
  (strmOf z.k z.r z.d 2 f).bitAt (halves t.swi z.d) z.idx 1 (t.row0 + r) (t.col0 + c)

/-- The tile's own elements with their row and column in it. -/
def OTile.owned (t : OTile) : List (Nat × Nat × Elem) :=
  (t.rows.mapIdx (fun r es => (es.mapIdx (fun c e => (r, c, e))).filter (fun e =>
    decide (t.own.1 ≤ e.2.1) && decide (e.2.1 < t.own.1 + t.own.2)))).flatten

/-- Bytes of a tile's own elements in a buffer at stream C's addresses. -/
def EpiCtx.cells (z : EpiCtx) (b : Buf) (f : Fmt) (t : OTile) : List WByte :=
  packFields b (t.owned.map (fun e => (z.bitC t f e.1 e.2.1, f.bits, e.2.2.code)))

/-- Row of the output that QUANT and ROWSTAT count by: that of stream C as R115 counts it where M is its row
dimension, else the M coordinate (log 23). -/
def EpiCtx.rowIdx (z : EpiCtx) (t : OTile) (r : Nat) : Nat :=
  let c := strmOf z.k z.r z.d 2 (opFmt z.r.op.w 2)
  if c.rowD = 1 && c.pitch != 0 then c.row (c.bitAt (halves t.swi z.d) z.idx 1 (t.row0 + r) 0) else t.row0 + r

def silu (l : Bool) (g u : Val) : Val :=
  let e := builtin l .exp g.negate
  let d := round32 ((Val.ofInt 1).add e)
  let q := builtin l .rcp d
  let s := round32 (g.mul q)
  round32 (s.mul u)

def swigluRow (l : Bool) (f : Fmt) (g : Nat) (es : List Elem) : List Elem :=
  (chunksOf (2 * g) es.length es).flatMap (fun grp =>
    let gs := grp.take g
    let us := grp.drop g
    (gs.zip us).map (fun e =>
      let y := silu l e.1.v e.2.v
      let o := (Elem.mk Val.zero 0 (e.1.rd ++ e.2.rd) (e.1.fl ||| e.2.fl)).toFmt f y
      o))

/-- Quantise one block: its elements with their codes, and its scale entry (R26, R27). -/
def quantElems (f : Fmt) (grp : List Elem) : List Elem × Nat :=
  let (sc, cs, fl) := quantBlock f (grp.map Elem.v)
  ((grp.zip cs).map (fun e => { e.1 with code := e.2, v := scaledVal f e.2 sc, fl := e.1.fl ||| fl }), sc)

/-- Quantise a row in blocks of 32 columns anchored at column 0 of the op (R121): elements, and (block, scale). -/
def quantRow (f : Fmt) (col0 : Nat) (es : List Elem) : List Elem × List (Nat × Nat) :=
  let head := min es.length (32 - col0 % 32)
  let blocks := (if col0 % 32 = 0 then [] else [es.take head]) ++
    chunksOf 32 es.length (if col0 % 32 = 0 then es else es.drop head)
  let out := blocks.mapIdx (fun b grp => let q := quantElems f grp; (q.1, (col0 / 32 + b, q.2)))
  (out.flatMap Prod.fst, out.map Prod.snd)

/-- N maximum of an op. -/
def maxN (d : Desc) : Nat := match d.carrier 2 with | some l => (d.level l).max | none => 1

/-- Stage i of an epilogue on a tile. -/
def EpiCtx.stage (z : EpiCtx) (i : Nat) (s : Stage) (t : OTile) : OTile :=
  let f := fmtOf s.fmt
  let b1 := bufOf z.k s.buf1
  match s.code with
  | 0x10 =>
    let bf := fmtOf (fld s.param 4 0)
    { t with rows := mapCols (fun _ c e =>
        let bit : Int := ((t.col0 + c) * bf.bits : Nat)
        let as := bitAddrs b1 bit bf.bits
        let b := elemVal bf (bitsAt z.k.store as bit bf.bits)
        let e' := e.toFmt f (round32 (e.v.add b))
        { e' with rd := e'.rd ++ as }) t.rows }
  | 0x11 =>
    let zx : EpiCtx := { z with d := halves t.swi z.d }
    { t with rows := mapCols (fun r c e =>
        let a := (zx.operandAt 3 (opFmt z.r.op.w 3) 1 (t.row0 + r) (t.col0 + c)).widen
        let e' := e.toFmt f (round32 (e.v.add a.v))
        { e' with rd := e'.rd ++ a.rd, fl := e'.fl ||| a.fl }) t.rows }
  | 0x12 =>
    let g := 2 ^ fld s.param 2 0
    { t with col0 := t.col0 / 2, rows := t.rows.map (swigluRow z.l f g), own := (t.own.1 / 2, t.own.2 / 2), swi := t.swi + 1 }
  | 0x13 =>
    if f.scaled then
      let q := t.rows.map (quantRow f t.col0)
      let bb := ceilDiv (maxN z.d) 32
      let n := f.scaleBytes
      let mine (k : Nat) : Bool := decide (32 * k < t.col0 + t.own.1 + t.own.2) && decide (t.col0 + t.own.1 < 32 * k + 32)
      let sc := q.mapIdx (fun r e => (e.2.filter (fun p => mine p.1)).flatMap (fun p =>
        putBytes ((List.range n).map (fun (j : Nat) => b1.addr ((n * (bb * z.rowIdx t r + p.1) + j : Nat) : Int))) p.2 false))
      { t with rows := q.map Prod.fst, effs := t.effs ++ [.write 0 0 sc.flatten] }
    else { t with rows := mapCols (fun _ _ e => e.toFmt f e.v) t.rows }
  | 0x14 =>
    { t with leaves := t.leaves ++ t.owned.map (fun e =>
        ⟨i + 1, ((z.rowIdx t e.1 : Nat) : Int), t.col0 + e.2.1, encX e.2.2.v, false, z.idx, e.1⟩) }
  | 0x15 =>
    let sig : Option Sig :=
      if bitAt s.param 23 then some ⟨fld s.param 15 10, fld s.param 21 16, bitAt s.param 22, 1⟩ else none
    { t with effs := t.effs ++ [.out s.buf1 (z.cells b1 f t) sig] }
  | _ => t

/-- Round an engine result to SRC_FMT and run the stages (R110); without a chain, round to FMT_C. -/
def EpiCtx.run (z : EpiCtx) (t : OTile) : OTile :=
  match chainFor z.k (opEpi z.r.op.w) with
  | some ch =>
    let f := fmtOf ch.src
    (ch.stages.mapIdx (fun i s => (i, s))).foldl (fun t e => z.stage e.1 e.2 t)
      { t with rows := mapCols (fun _ _ e => e.toFmt f e.v) t.rows }
  | none =>
    let f := opFmt z.r.op.w 2
    if f.scaled then t else { t with rows := mapCols (fun _ _ e => e.toFmt f e.v) t.rows }

/-- Write the tile to stream C; an op whose last stage is SEND may name no C (R123). -/
def EpiCtx.write (z : EpiCtx) (t : OTile) : List Eff :=
  if opBuf z.r.op.w 2 = noBuf then []
  else [.write 0 0 (z.cells (bufOf z.k (opBuf z.r.op.w 2)) (opFmt z.r.op.w 2) t)]

def statKind (n : Nat) : StatKind := if n = 0 then .sumSq else if n = 1 then .sum else .max

/-- Distinct rows of leaves, in order of appearance. -/
def leafRows (ls : List Leaf) : List (Nat × Int) := (ls.map (fun x => (x.stage, x.row))).eraseDups

/-- FP32X leaves of one row on a tree of width 2^k, each at its column, +0 elsewhere (R122). -/
def leafVals (k : Nat) (ls : List Leaf) : List Val :=
  (List.range (2 ^ k)).map (fun c => match ls.find? (fun x => x.col == c) with
    | some x => decX x.code
    | none => Val.zero)

/-- The statistic of a row's leaves: a tree of width 2^k, or the maximum of the leaves alone. -/
def leafStat (kind : StatKind) (k : Nat) (ls : List Leaf) : Val :=
  if kind = .max then rowStat .max 0 (ls.map (fun x => decX x.code))
  else rowStat kind k (leafVals k ls)

/-- The partials that the ROWSTAT stages write at the op's end, and NAN_SEEN where one is a NaN (R28, R122). -/
def rowStatCells (k : Core) (d : Desc) (w : List Nat) (ls : List Leaf) : List WByte × Nat :=
  let st := ((chainFor k (opEpi w)).map Chain.stages).getD []
  let width := log2Up (maxN d)
  let one (p : Nat × Int) : List WByte × Nat :=
    let s := st.getD (p.1 - 1) ⟨0, 0, 0, 0, 0⟩
    let mine := ls.filter (fun x => x.stage == p.1 && x.row == p.2)
    let v := leafStat (statKind (fld s.param 23 22)) width mine
    let bad := mine.any Leaf.bad
    (putBytes (slotAddrs (bufOf k s.buf1) (fld s.param 21 12 + 1) p.2.toNat (fld s.param 9 0)) (encX v) bad,
     if bad then 0 else if v.isNan then fNanSeen else 0)
  let all := (leafRows ls).map one
  (all.flatMap Prod.fst, all.foldl (fun a x => a ||| x.2) 0)

end Sys2Proof.Machine
end

