-- ==== Sys2Proof/Machine/OpCheck.lean ====
section
/-!
DEFINITION. The checks of R61 on one op, which PATTERN_VERIFY makes and which an op read from a corrupted control
region fails at dispatch (OP_INVALID, R70).
-/
namespace Sys2Proof.Machine

def ckField := 0x0001
def ckFormat := 0x0002
def ckSem := 0x0003
def ckRange := 0x0004
def ckAlign := 0x0005
def ckBound := 0x0006
def ckCount := 0x0007
def ckTags := 0x0008
def ckStage := 0x0009
def ckCounter := 0x000A
def ckRud := 0x000B

/-- The first check of a list that fails. -/
def firstFail : List (Bool × Nat) → Option Nat
  | [] => none
  | (b, c) :: t => if b then some c else firstFail t

/-- Is an OPCODE defined for its engine (Tables 2.7, 5.1, 6.5, 8.1; VU and RSU: log 9). -/
def opcodeOk (w : List Nat) : Bool :=
  let o := opCode w
  match opEngine w with
  | 0 => decide (o ≤ 5)
  | 1 => true
  | 2 => (Config.vuOpcode o).isSome
  | 3 => (decide (1 ≤ o) && decide (o ≤ 6)) || o == 0x10
  | 4 => (Config.rsuOpcode o).isSome
  | 5 => decide (1 ≤ o) && decide (o ≤ 5)
  | 6 => decide (1 ≤ o) && decide (o ≤ 3)
  | _ => false

/-- Reserved fields of Table 2.5. -/
def opReserved (w : List Nat) : Bool :=
  let q (i : Nat) : Nat := w.getD i 0
  fld (q 0) 47 46 != 0 || bitAt (q 0) 36 || fld (q 1) 63 40 != 0 || fld (q 3) 31 26 != 0 || fld (q 3) 63 55 != 0 ||
  fld (q 4) 31 20 != 0 || fld (q 6) 63 40 != 0 || fld (q 7) 63 16 != 0

/-- Reserved immediate bits of a control op (R63, R94). -/
def csqReserved (w : List Nat) : Bool :=
  let i (n : Nat) : Nat := opImm w n
  match opCode w with
  | 0 | 1 => i 0 != 0 || i 1 != 0 || i 2 != 0
  | 2 => i 1 != 0 || i 2 != 0
  | 3 | 4 => fld (i 0) 31 5 != 0 || i 2 != 0
  | 5 => fld (i 0) 31 6 != 0 || fld (i 2) 30 13 != 0 || fld (i 2) 7 4 != 0 ||
      (if bitAt (i 2) 31 then i 1 != 0 else fld (i 2) 12 8 != 0)
  | _ => false

/-- Streams for which an op must name a buffer (Table 3.13, R123, R506). -/
def needsBuf (k : Core) (w : List Nat) : List Nat :=
  let epi := chainFor k (opEpi w)
  let sends := match epi with
    | some c => (c.stages.getLast?).any (fun s => s.code == 0x15)
    | none => false
  let out : List Nat := if sends && !opAttn w then [] else [2]
  match opEngine w with
  | 1 => [0, 1] ++ (if opAttn w || hasStage epi 0x11 then [3] else []) ++ out
  | 2 => (usedStreams w).filter (· != 2) ++ out ++ (if hasStage epi 0x11 then [3] else [])
  | 5 => match opCode w with
    | 1 | 4 => [0, 2]
    | _ => [0, 1, 2]
  | 3 | 4 | 6 => [0, 2]
  | _ => []

/-- The checks of R61: the check code of the first that fails. -/
def r61 (k : Core) (w : List Nat) : Option Nat :=
  let eng := opEngine w
  let nbuf := (ctlTable k 2).2
  -- a 0 in a field that a control op does not use names nothing (log 84)
  let bad (b : Nat) : Bool := b != noBuf && decide (nbuf ≤ b) && !(eng == 0 && b == 0)
  firstFail [
    (opReserved w, ckField),
    (decide (7 ≤ eng), ckField),
    (decide (6 ≤ opShape w), ckField),
    ((opWaits w).any (fun x => x.count == 0), ckField),
    (!opcodeOk w, ckField),
    (eng == 0 && csqReserved w, ckField),
    (eng != 0 && decide ((ctlTable k 1).2 ≤ opLoop w), ckField),
    (opPro w != 0 && decide ((ctlTable k 3).2 ≤ opPro w), ckField),
    (opEpi w != 0 && decide ((ctlTable k 3).2 ≤ opEpi w), ckField),
    (opPlist w != 0xFF && decide ((ctlTable k 4).2 ≤ opPlist w) && !(eng == 0 && opPlist w == 0), ckField),
    ((List.range 4).any (fun i => bad (opBuf w i) || bad (opSbuf w i)), ckField),
    ((needsBuf k w).any (fun i => opBuf w i == noBuf), ckField),
    ((List.range 4).any (fun i => decide (0x11 ≤ opFmtCode w i)), ckFormat)]

end Sys2Proof.Machine
end

