-- ==== Sys2Proof/Machine/EngineBase.lean ====
section
/-!
DEFINITION. What every engine op shares: starting under its waits and bounds (R54, R59, R65, R77, R87), pointer
list entries (R86 to R88), tiles with their waits and signals (R57), reads with STORE_UE and poison (R48, R228),
effects held or carried out (R102), and completion (R65).
-/
namespace Sys2Proof.Machine

def State.eng (s : State) (c e : Nat) : Option Run := Table.get none (s.core c).engs e
def State.setEng (s : State) (c e : Nat) (r : Option Run) : State :=
  s.updCore c (fun k => { k with engs := Table.set none k.engs e r })

/-- Bit errors that stand in the core store, as (lane, flipped bits). -/
def State.upset (s : State) (c : Nat) (up : List (Nat × Nat)) : State :=
  s.updCore c (fun k => { k with flips := up.foldl (fun f x => Table.upd 0 f x.1 (fun o => o ^^^ (x.2 % 2 ^ 64))) k.flips })

/-! ## Geometry of a run -/

/-- An MXU op with a K bound of 0 over a nest that is not empty otherwise (R78). -/
def kZero (k : Core) (r : Run) : Bool :=
  let w := r.op.w
  let d := descOf (descWords k (opLoop w))
  opEngine w == 1 && !opAttn w && (match d.carrier 3 with
    | some l => r.bounds.getD l 1 == 0 && (List.range 6).all (fun j => j == l || r.bounds.getD j 1 != 0)
    | none => false)

/-- The geometry of a run; under kZero the K level counts one cell, which sums nothing. -/
def engGeo (k : Core) (r : Run) : Geo :=
  let g := geoOf k r
  if kZero k r then
    match g.d.carrier 3 with
    | some l => { g with counts := g.d.counts g.order (r.bounds.set l 1) }
    | none => g
  else g

def opGlevel (w : List Nat) : Nat := fld (opImm w 1) 15 13

/-- Cells of the nest, or of the drawn tile; an attention op counts grain slots and an LWU op is one cell. -/
def runTotal (k : Core) (r : Run) : Nat :=
  let g := engGeo k r
  if opEngine r.op.w = 5 then (if (List.range 6).any (fun l => r.bounds.getD l 1 == 0) then 0 else 1)
  else if opAttn r.op.w then (if prod g.counts = 0 then 0 else iters (r.bounds.getD (opGlevel r.op.w) 1) 1)
  else match r.drawn with
    | some (i, _) => if i < g.tiles then g.cells else 0
    | none => prod g.counts

/-- Cells of one tile (R57, R157, R506). -/
def runCells (k : Core) (r : Run) : Nat :=
  if opEngine r.op.w = 5 || opAttn r.op.w then 1 else (engGeo k r).cells

/-! ## Reads -/

/-- What a read takes from lanes with a double-bit error is free (log 91): the lanes hold it until they are written. -/
def State.freeLanes (s : State) (c : Nat) (lanes : List Nat) : State :=
  lanes.foldl (fun s l => (s.updCore c (fun k => { k with store := k.store.writeN (8 * l) (s.freeBytes 8) })).drew 8) s

/-- A read of store bytes: single errors are counted, a double error is STORE_UE, poison spreads to the tile
(R48, R227, R228). The flag says that the knell was raised. -/
def State.readCheck (s : State) (c e : Nat) (addrs : List Nat) : State × Bool :=
  match s.eng c e with
  | none => (s, false)
  | some r =>
    let k := s.core c
    let lanes := (addrs.foldl (fun l a => NatSet.insert l (a / 8)) [])
    let bad (n : Nat) (l : Nat) : Bool := popcount (Table.get 0 k.flips l) == n
    let ue := lanes.filter (fun l => 2 ≤ popcount (Table.get 0 k.flips l))
    let s := s.count 3 (4 * c) (lanes.filter (bad 1)).length
    let fc := opFclass r.op.w
    let id := opId r.op.w
    let poisoned := addrs.any (fun a => NatSet.has k.poison (a / 64))
    match ue with
    | l :: _ => match s.faultAct fc 0x04 false with
      | .knell cause => (s.faultKnell c 0x04 id (8 * l) cause, true)
      | _ => ((((s.logFault c 0x04 id (8 * l)).setPoison).freeLanes c ue).setEng c e (some { r with poisonTile := true }), false)
    | [] =>
      if poisoned && !r.poisonTile then
        match s.faultAct fc 0x21 false with
        | .knell cause => (s.faultKnell c 0x21 id 0 cause, true)
        | _ => ((s.logFault c 0x21 id 0).setEng c e (some { r with poisonTile := true }), false)
      else (s, false)

/-! ## Effects -/

/-- Bytes of a poisoned output: marked, with free contents (R228, log 8). -/
def State.spoil (s : State) (cs : List WByte) : State × List WByte :=
  ((s.drew cs.length), cs.mapIdx (fun i x => { x with val := Config.freeByte (s.free + i), poison := true }))

def State.spoilEffs (s : State) : List Eff → State × List Eff
  | [] => (s, [])
  | e :: t =>
    let (s, e') := match e with
      | .write sp p cs => let (s, cs) := s.spoil cs; (s, Eff.write sp p cs)
      | .out b cs g => let (s, cs) := s.spoil cs; (s, Eff.out b cs g)
      | .signal g => (s, Eff.signal g)
    let (s, t') := State.spoilEffs s t
    (s, e' :: t')

/-- Free contents for the bytes that carry poison, the others as they are. -/
def State.spoilBad (s : State) : List Eff → State × List Eff
  | [] => (s, [])
  | e :: t =>
    let free (cs : List WByte) : List WByte := cs.mapIdx (fun i x => if x.poison then { x with val := Config.freeByte (s.free + i) } else x)
    let (n, e') := match e with
      | .write sp p cs => (cs.length, Eff.write sp p (free cs))
      | .out b cs g => (cs.length, Eff.out b (free cs) g)
      | .signal g => (0, Eff.signal g)
    let (s, t') := State.spoilBad (s.drew n) t
    (s, e' :: t')

/-- Must bytes bound for a space wait: DRAM is closed, or a page is on its way to DEVICE (R241, Table 7.6). -/
def State.mustWait (s : State) (space : Nat) (cs : List WByte) : Bool :=
  ((space == 3 || space == 4) && s.dram.closed && !cs.isEmpty) || cs.any (fun x => (s.writeCheck space x.addr).2)

/-- Does an effect of a tile wait. -/
def State.outWaits (s : State) (c : Nat) (es : List Eff) : Bool :=
  es.any (fun e => match e with
    | .out b cs _ => s.outLocal c b && s.mustWait (bufOf (s.core c) b).space cs
    | .write sp _ cs => s.mustWait sp cs
    | .signal _ => false)

/-- Bytes of a granule of the path that a byte takes (R214): DRAM, the host link, or 64-byte words on chip. A page in HOST that
is read where it lies is on the host link (R202). -/
def State.granuleAt (s : State) (space a : Nat) (write : Bool) : Nat :=
  match space with
  | 3 => 1024
  | 4 => match s.locate a write with
    | .host _ _ => 256
    | _ => 1024
  | 5 => 256
  | _ => 64

/-- First byte of the granule. -/
def State.granBase (s : State) (space a : Nat) (write : Bool) : Nat := a / s.granuleAt space a write * s.granuleAt space a write

/-- What the checks of a SEND's writes give, granule by granule: a SEND is no stream that could halt, so a fault that
is not the knell drops the write and poisons the step (R175, R227, log 82). -/
def State.outFaults (s : State) (c buf : Nat) (w : List Nat) (cs : List WByte) : State :=
  if !s.outLocal c buf then s
  else
    let sp := (bufOf (s.core c) buf).space
    let bad := (cs.map (fun x => (x.addr, (s.writeCheck sp x.addr).1))).filter (fun x => x.2 != 0)
    let firsts := bad.filter (fun x =>
      (bad.find? (fun y => s.granBase sp y.1 true == s.granBase sp x.1 true)) == some x)
    firsts.foldl (fun s x =>
      if !s.running then s
      else match s.faultAct (opFclass w) x.2 true with
        | .knell cause => s.faultKnell c x.2 (opId w) x.1 cause
        | _ => (s.logFault c x.2 (opId w) x.1).setPoison) s

/-- Carry out effects of core c for the op w; `pitch` is stream C's row pitch, by which OWNER sends rows. -/
def State.carryOut (s : State) (c pitch : Nat) (w : List Nat) (es : List Eff) : State :=
  es.foldl (fun s e => if !s.running then s else match e with
    | .write space peer cs =>
      let s := if space ≤ 1 then (cs.head?.map (fun x => s.noteRange (if space = 0 then c else peer) x.addr 1)).getD s else s
      s.spaceWrite c space peer (s.landing c space peer cs)
    | .out b cs g =>
      let s := s.outFaults c b w cs
      let bf := bufOf (s.core c) b
      if s.running then s.sendOut c b pitch (s.landing c bf.space bf.peer cs) g else s
    | .signal g => s.applySig g c) s

/-! ## Signals -/

/-- Is stream C of a TMV op bound to a member (R207). -/
def State.cBound (s : State) (c : Nat) (w : List Nat) : Bool :=
  opEngine w == 6 && s.car.member &&
    (bindingsOf s.pat.image).any (fun b => b.core == c && b.buf == opBuf w 2)

/-- Cores of an MCAST mask (R204). -/
def mcastCores (w : List Nat) : List Nat := setBits 64 (opImm w 1 + opImm w 2 * 2 ^ 32)

/-- The signals of an op that are due, per tile or per op; SIG0 of a bound TMV op travels with its data (R207) and
that of an MCAST goes to every core of its mask (R210). -/
def State.dueSigs (s : State) (c : Nat) (w : List Nat) (tile : Bool) : List Sig :=
  let g (i : Nat) : List Sig := match opSig w i with
    | some (t, x) => if t == tile then [x] else []
    | none => []
  let g0 := if opEngine w = 6 && opCode w = 2 then
      (g 0).flatMap (fun x => (mcastCores w).map (fun c => { x with core := c }))
    else if s.cBound c w then [] else g 0
  g0 ++ g 1

/-! ## Starting an op -/

/-- Actual bounds of the six levels; a PLIST level waits for its entry (R75). -/
def startBounds (k : Core) (q : QOp) : List Nat :=
  let d := descOf (descWords k (opLoop q.w))
  d.levels.map (fun l =>
    if l.src = 0 then l.bound
    else if l.src = 1 then q.bnd.getD (l.bound % 32) 0
    else if l.src = 2 then k.store.readLe l.bound 4
    else 1)

def memBoundAddrs (k : Core) (q : QOp) : List Nat :=
  let d := descOf (descWords k (opLoop q.w))
  d.levels.flatMap (fun l => if l.src = 2 then (List.range 4).map (l.bound + ·) else [])

/-- Entries of the pointer list and its declared maximum (Table 3.7); one run without a list. -/
def listCount (k : Core) (q : QOp) : Nat × Nat :=
  if opPlist q.w = 0xFF then (1, 1)
  else
    let h := plistWords k (opPlist q.w)
    let n := fld (h.getD 0 0) 31 0
    (if bitAt (h.getD 1 0) 10 then q.bnd.getD (n % 32) 0 else n, fld (h.getD 0 0) 47 32)

/-- Bytes of entry i of a control table whose entries have n bytes. -/
def ctlSpan (k : Core) (table n i : Nat) : List Nat := (List.range n).map ((ctlTable k table).1 + n * i + ·)

/-- Bytes of the control region that an op reads when it starts: its descriptor, its chains, its list header and the
entries of the buffers that it or its stages name (R48, R49). -/
def controlAddrs (k : Core) (w : List Nat) : List Nat :=
  let chains := [opPro w, opEpi w].filter (· != 0)
  let stages := chains.flatMap (fun i => (chainOf (chainWords k i)).stages)
  let bufs := ((needsBuf k w ++ vStreams k w).map (opBuf w) ++ (List.range 4).map (opSbuf w) ++ stages.flatMap stageNames).filter
    (· != noBuf)
  ctlSpan k 1 256 (opLoop w) ++ chains.flatMap (ctlSpan k 3 64) ++ bufs.eraseDups.flatMap (ctlSpan k 2 32) ++
    (if opPlist w = 0xFF then [] else ctlSpan k 4 16 (opPlist w) ++ ctlSpan k 2 32 (fld ((plistWords k (opPlist w)).getD 1 0) 9 0))

def opTileWaits (w : List Nat) : List Wait := (opWaits w).filter (fun x => x.tile)
def opStartWaits (w : List Nat) : List Wait := (opWaits w).filter (fun x => !x.tile)

/-- Engine e takes op q: waits are taken, its descriptor, tables and bounds are read and checked (R48, R65, R77, R87). Where
an uncorrectable error meets one of them and the op flows on, its value is free (log 91). -/
def State.startOp (s : State) (c e : Nat) (q : QOp) : State :=
  let ws := opStartWaits q.w
  let s := s.noteLate c (Table.get 0 (s.core c).headAt e) [] ws
  let len := Table.get Lens.init s.kv.lens (fld (opImm q.w 2) 15 0)
  let r : Run :=
    { op := q, entries := 0, entry := 0, begun := opPlist q.w == 0xFF, bounds := [], offs := [0, 0, 0, 0], pos := 0,
      tileOpen := false, tiles := 0, acc := [], leaves := [], drawn := none, held := [], ready := false,
      poisonTile := false, len := if opAttn q.w then len.committed + len.prov else 0, tileFrom := s.now,
      halt := none, retry := none, patch := [], reqAt := s.now, sent := [], sig0 := false,
      headFrom := Table.get 0 (s.core c).headAt e }
  let s := (s.updCore c (fun k => { k.takeWaits ws with queues := Table.upd [] k.queues e (fun l => l.drop 1) })).setEng c e (some r)
  let k := s.core c
  let (s, dead) := s.readCheck c e (controlAddrs k q.w ++ memBoundAddrs k q)
  let k := s.core c
  let bounds := startBounds k q
  let (n, mx) := listCount k q
  let s := s.setEng c e ((s.eng c e).map (fun r => { r with entries := n, bounds := bounds }))
  let d := descOf (descWords k (opLoop q.w))
  if dead then s
  else if mx < n || (List.range 6).any (fun l => (d.level l).src != 3 && decide ((d.level l).max < bounds.getD l 0)) then
    s.faultKnell c 0x01 (opId q.w) 0 0x01
  else s

/-! ## Pointer list entries -/

/-- Store addresses and words of an entry of a pointer list (Table 3.8). -/
def entryAddrs (b : Buf) (i : Nat) : List Nat := (List.range 32).map (fun (n : Nat) => b.addr ((32 * i + n : Nat) : Int))
def entryWords (k : Core) (b : Buf) (i : Nat) : List Nat :=
  (List.range 4).map (fun n => leNat (((entryAddrs b i).drop (8 * n)).take 8 |>.map k.store.read))

/-- Begin entry `r.entry` (R88): its checks, its offsets and its length. Every byte of its streams and of their scale
arrays lies in its buffer; with a K bound of 0 that is stream C alone (R78). -/
def State.beginEntry (s : State) (c e : Nat) (r : Run) : State × Bool :=
  let k := s.core c
  let w := r.op.w
  let h := plistWords k (opPlist w)
  let b := bufOf k (fld (h.getD 1 0) 9 0)
  let (s, dead) := s.readCheck c e (entryAddrs b r.entry)
  let r := (s.eng c e).getD r
  let k := s.core c
  let q := entryWords k b r.entry
  let q3 := q.getD 3 0
  let lsrc := fld q3 63 62
  let seq := fld q3 47 32
  let l := Table.get Lens.init s.kv.lens seq
  if dead then (s, false)
  else if lsrc = 3 || fld q3 61 48 ≠ 0 || (lsrc ≠ 0 && (4095 < seq || !l.isOpen)) then
    (s.faultKnell c 0x05 (opId w) r.entry 0x01, false)
  else
    let n := if lsrc = 0 then fld q3 31 0 else if lsrc = 1 then l.committed else l.committed + l.prov
    let d := descOf (descWords k (opLoop w))
    let bounds := (List.range 6).map (fun i => if (d.level i).src = 3 then n else r.bounds.getD i 1)
    let offs := [q.getD 0 0, q.getD 1 0, q.getD 2 0, 0]
    let overs := (List.range 6).any (fun i => (d.level i).src == 3 && decide ((d.level i).max < n))
    let zero := kZero k { r with bounds := bounds }
    let reach := match d.carrier 3 with
      | some l => if zero then bounds.set l 1 else bounds
      | none => bounds
    let out := ((vStreams k w).filter (fun i => !zero || i == 2)).any (fun i =>
      let bf := bufOf k (opBuf w i)
      let dv := vDesc k w d i
      let f := vFmt [] k w i
      let sb := bufOf k (opSbuf w i)
      match streamSpan w dv (halfBounds d dv reach) i f (signed 64 (offs.getD i 0)) (List.range 6) with
      | some (lo, hi) => (!bf.wrap && !bf.covers lo hi) ||
          (f.scaled && opSbuf w i != noBuf && !sb.wrap && !sb.coversScale f lo hi)
      | none => false)
    if overs || out then (s.faultKnell c 0x01 (opId w) r.entry 0x01, false)
    else (s.setEng c e (some { r with begun := true, bounds := bounds, offs := offs, pos := 0 }), true)

/-! ## Rows of an RSU op or of a VU reduction (R36, R37) -/

/-- Cut a list where a key changes. -/
def cutBy {α : Type} (key : α → Int) : List α → List (List α)
  | [] => []
  | x :: t => match cutBy key t with
    | (y :: r) :: rest => if key x = key y then (x :: y :: r) :: rest else [x] :: (y :: r) :: rest
    | rest => [x] :: rest

/-- Quantise elements at bit offsets of stream C, in the order of its contiguous dimension, in the blocks of R17: one
scale entry for each run of elements with the same floor(o / B32) (R26, R27, R62). -/
def quantLine (c : Strm) (es : List (Int × Elem)) : List (Int × Elem) × List WByte :=
  let q := (cutBy (fun e => e.1 / 8 / (c.f.b32 : Int)) es).map (fun grp =>
    let (els, sc) := quantElems c.f (grp.map Prod.snd)
    ((grp.map Prod.fst).zip els, putBytes (c.scaleAddrs ((grp.map Prod.fst).headD 0)) sc false))
  (q.flatMap Prod.fst, q.flatMap Prod.snd)

/-- An op whose rows are complete when a tile ends: its N level, if any, lies inside TILE_LEVEL or makes one pass. -/
def rowsInTile (k : Core) (r : Run) : Bool :=
  let g := engGeo k r
  match g.d.carrier 2 with
  | some l => (g.order.take g.tp).contains l || decide (iters (r.bounds.getD l 1) (g.d.level l).step ≤ 1)
  | none => true

/-- The value of a row from its leaves. A VU row sum takes the tree of R36, over padded lanes too (R91, log 9). -/
def rowValue (w : List Nat) (n : Nat) (mine : List Leaf) : Val :=
  if opEngine w = 4 then
    match Config.rsuOpcode (opCode w) with
    | some .sumSq => leafStat .sumSq (log2Up n) mine
    | some .sum => leafStat .sum (log2Up n) mine
    | some .max => leafStat .max 0 mine
    | some .meanSq => divX (leafStat .sumSq (log2Up n) mine) n
    | some .mean => divX (leafStat .sum (log2Up n) mine) n
    | none => Val.zero
  else if Config.vuOpcode (opCode w) = some .rowMax then leafStat .max 0 mine
  else leafStat .sum (log2Up ((mine.map (fun x => x.col + 1)).foldl max 1)) mine

/-- Each complete row of a run's leaves becomes its element of stream C, through the epilogue if the op has one (R110):
what is written, flags raised, and leaves that ROWSTAT stages keep. Rows of a block-scaled stream C without a chain
are quantised in blocks along C (R17, R24). -/
def rowWrites (l : Bool) (k : Core) (r : Run) (ls : List Leaf) : List Eff × Nat × List Leaf :=
  let w := r.op.w
  let d := descOf (descWords k (opLoop w))
  let n := (match d.carrier 2 with | some x => r.bounds.getD x 1 | none => 1)
  let f := opFmt w 2
  let c := strmOf k r d 2 f
  let mark (bad : Bool) (cs : List WByte) : List WByte := cs.map (fun x => { x with poison := x.poison || bad })
  let markEff (bad : Bool) (e : Eff) : Eff := match e with
    | .write sp p cs => .write sp p (mark bad cs)
    | .out b cs g => .out b (mark bad cs) g
    | .signal g => .signal g
  let rows := (leafRows ls).map (fun p =>
    let mine := ls.filter (fun x => x.row == p.2)
    let h := mine.headD ⟨0, 0, 0, 0, false, [], 0⟩
    let v := rowValue w n mine
    let bad := mine.any Leaf.bad
    let z : EpiCtx := ⟨k, l, r, d, h.idx⟩
    let t := z.run ⟨dimBase d h.idx 1 + h.line, 0, [[⟨v, 0, [], nanFlag v⟩]], (0, 1), 0, [], []⟩
    (p.2, bad, t, (t.rows.flatMap id).headD Elem.zero))
  let effs := rows.flatMap (fun e => e.2.2.1.effs.map (markEff e.2.1))
  let kept := rows.flatMap (fun e => e.2.2.1.leaves.map (fun x => { x with bad := x.bad || e.2.1 }))
  let fl := flagsOf ((rows.filter (fun e => !e.2.1)).map (fun e => e.2.2.2))
  if opBuf w 2 = noBuf then (effs, fl, kept)
  else if f.scaled && opEpi w = 0 then
    let bad (b : Int) : Bool := rows.any (fun e => e.2.1 && e.1 / 8 / (f.b32 : Int) == b / 8 / (f.b32 : Int))
    let q := (cutBy (fun e => e.1 / 8 / (f.b32 : Int)) (rows.map (fun e => (e.1, e.2.2.2)))).map (fun g =>
      (bad ((g.map Prod.fst).headD 0), quantLine c g))
    (effs ++ q.flatMap (fun e => [.write 0 0 (mark e.1 (packFields c.buf (e.2.1.map (fun x => (x.1, f.bits, x.2.code))))),
        .write 0 0 (mark e.1 e.2.2)]),
     (q.filter (fun e => !e.1)).foldl (fun a e => a ||| flagsOf (e.2.1.map Prod.snd)) fl, kept)
  else
    (effs ++ rows.map (fun e => .write 0 0 (mark e.2.1 (packFields c.buf [(e.1, f.bits, e.2.2.2.code)]))), fl, kept)

/-! ## Completion -/

/-- The rows of a nest that is done are written (R36, R122); an op with a pointer list does so for each entry. Contents
of a poisoned row are free (R228, log 8). -/
def State.writeRows (s : State) (c : Nat) (r : Run) : State :=
  if r.leaves.isEmpty then s
  else
    let k := s.core c
    let d := descOf (descWords k (opLoop r.op.w))
    let (effs, fl, kept) := rowWrites s.profileL k r (r.leaves.filter (fun x => x.stage == 0))
    let (cs, fs) := rowStatCells k d r.op.w (r.leaves.filter (fun x => x.stage != 0) ++ kept)
    let es := effs ++ (if cs.isEmpty then [] else [.write 0 0 cs])
    let s := if r.leaves.any Leaf.bad then s.setPoison else s
    let (s, es) := s.spoilBad es
    (s.raise c (fl ||| fs)).carryOut c (d.pitch.getD 2 1) r.op.w es

/-- The per-op SIG0 of a bound TMV op that no message of its tiles carried: in a last message without data after them, or,
when the op sent none, as a signal without data (R207, R208, log 104). -/
def State.lateSig0 (s : State) (c : Nat) (r : Run) : State :=
  let w := r.op.w
  if !s.cBound c w || r.sig0 then s
  else match opSig w 0 with
    | some (false, g) =>
      if !r.sent.isEmpty then s.sendOut c (opBuf w 2) 1 [] (some g)
      else match s.memberRec, (bindingsOf s.pat.image).find? (fun x => x.core == c && x.buf == opBuf w 2) with
        | some m, some x => s.signalBound m x (bufOf (s.core c) (opBuf w 2)) c g
        | _, _ => s
    | _ => s

/-- The op is complete: last writes, per-op signals, and the engine is free (R65). SIG1 of a bound TMV op follows its flits
(R207). -/
def State.completeOp (s : State) (c e : Nat) (r : Run) : State :=
  let w := r.op.w
  let s := (s.writeRows c r).lateSig0 c r
  let bound := s.cBound c w
  let s := (s.dueSigs c w false).foldl (fun s g => if bound then s.sourceSig c r.sent g else s.applySig g c) s
  if s.running then
    (s.setEng c e none).updCore c (fun k => { k with headAt := Table.set 0 k.headAt e s.now, idleAt := s.now })
  else s

/-- Carry out the effects of a tile; the signals of a bound TMV op wait until the tile's flits have left (R207). -/
def State.carryTile (s : State) (c e pitch : Nat) (w : List Nat) (es : List Eff) : State :=
  if !s.cBound c w then s.carryOut c pitch w es
  else
    let n := s.rt.injected
    let s := s.carryOut c pitch w (es.filter (fun x => match x with | .signal _ => false | _ => true))
    let span := (n, s.rt.injected)
    let s := match s.eng c e with
      | some r => s.setEng c e (some { r with sent := r.sent ++ [span] })
      | none => s
    es.foldl (fun s x => match x with
      | .signal g => if s.running then s.sourceSig c [span] g else s
      | _ => s) s

/-- One cell's outcome for an engine that works on its own store. -/
structure CellOut where
  rd : List Nat
  fl : Nat
  effs : List Eff
  acc : List Nat
  leaves : List Leaf
  deriving DecidableEq, Repr

def CellOut.none : CellOut := ⟨[], 0, [], [], []⟩

/-- Take a cell's outcome: reads are checked, flags raised, effects held to the end of the tile (R57, R228). Rows of an
RSU op or a VU reduction that are complete with the tile, or whose tile is drawn, are written with it (R57, R102, log 116). -/
def State.takeCell (s : State) (c e : Nat) (o : CellOut) : State × Bool :=
  let (s, dead) := s.readCheck c e o.rd
  if dead then (s, false)
  else match s.eng c e with
    | none => (s, false)
    | some r =>
      let s := if r.poisonTile then s else s.raise c o.fl
      let ls := r.leaves ++ o.leaves.map (fun x => { x with bad := x.bad || r.poisonTile })
      let k := s.core c
      let flush := (e == 4 || opReduces r.op.w) && (r.pos + 1) % runCells k r == 0 && (r.drawn.isSome || rowsInTile k r)
      if flush then
        let (effs, fl, kept) := rowWrites s.profileL k r (ls.filter (fun x => x.stage == 0))
        ((s.raise c fl).setEng c e (some { r with
          pos := r.pos + 1, held := r.held ++ o.effs ++ effs, acc := o.acc, leaves := ls.filter (fun x => x.stage != 0) ++ kept }), true)
      else (s.setEng c e (some { r with pos := r.pos + 1, held := r.held ++ o.effs, acc := o.acc, leaves := ls }), true)

/-- The end of a tile: its effects are spoiled when it read poison, its signals follow, and all of it is carried
out, or held for the commit flag (R57, R102, R228). A tile with bytes that must wait stays as it is. -/
def State.endTile (s : State) (c e : Nat) : State × Bool :=
  match s.eng c e with
  | none => (s, false)
  | some r =>
    let k := s.core c
    let w := r.op.w
    let quietTile := kZero k r
    let s0 := s
    let (s, es) := if r.poisonTile && opEngine w ≠ 6 then (s.setPoison).spoilEffs r.held else (s, r.held)
    let sigs := if quietTile then [] else (s.dueSigs c w true).map Eff.signal
    let factor := match r.drawn with
      | some _ => (match Table.get none s.fab.ctrs (opWctr w) with | some x => x.factor | none => 0)
      | none => 0
    let keep := r.poisonTile && !r.acc.isEmpty
    let r := { r with tileOpen := false, tileFrom := s.now, reqAt := s.now, held := [], poisonTile := keep }
    if factor ≠ 0 then (s.setEng c e (some { r with held := es ++ sigs, ready := true }), false)
    else if s0.outWaits c es then (s0, false)
    else
      let d := descOf (descWords k (opLoop w))
      let s := (s.setEng c e (some { r with tiles := r.tiles + 1 })).carryTile c e (d.pitch.getD 2 1) w (es ++ sigs)
      (s, s.running)

/-- When core c drew index i, from which its draw-to-commit time counts (R100, log 92). -/
def Wctr.drawnAt (x : Wctr) (i c now : Nat) : Nat :=
  match x.draws.find? (fun d => d.1 == i && d.2.1 == c) with
  | some d => d.2.2
  | none => now

/-- A drawn tile is done without a commit flag to test (F is 0): the index counts as committed (R97). -/
def State.drawDone (s : State) (c e : Nat) (r : Run) : State :=
  match r.drawn with
  | none => s
  | some (i, _) =>
    let n := opWctr r.op.w
    let s := (s.setEng c e (some { r with drawn := none, pos := 0, tileFrom := s.now }))
    { s with fab := { s.fab with ctrs := Table.upd none s.fab.ctrs n (fun o => o.map (fun x =>
        { x with commits := x.commits ++ [(i, s.now - x.drawnAt i c s.now)] })) } }

end Sys2Proof.Machine
end

