-- ==== Sys2Proof/Machine/Attention.lean ====
section
/-!
DEFINITION. The attention op (R150 to R158, R165, R171 to R174) and the LWU ops on its records (R159 to R161, R506).
-/
namespace Sys2Proof.Machine

/-! ## Records (Table 6.4) -/

/-- EMPTY, the reference of a grain without a live position (R154). -/
def rgEmpty : Int := -(2 ^ 31 : Nat)
def recBytes (d : Nat) : Nat := 8 + 4 * d

/-- Addresses of n bytes at an offset of a buffer. -/
def Buf.span (b : Buf) (o n : Nat) : List Nat := (List.range n).map (fun i => b.addr ((o + i : Nat) : Int))
def bytesAt (m : Mem) (as : List Nat) : Nat := leNat (as.map m.read)
/-- Cells for a little-endian number of n bytes at an offset of a buffer. -/
def Buf.put (b : Buf) (o n v : Nat) : List WByte := putBytes (b.span o n) v false

/-- A partial: reference, row sum, products. -/
structure Part where
  rg : Int
  ell : Val
  o : List Val
  deriving DecidableEq, Repr

def Part.empty (d : Nat) : Part := ⟨rgEmpty, Val.zero, List.replicate d Val.zero⟩

def Part.cells (p : Part) (b : Buf) (off : Nat) : List WByte :=
  b.put off 4 (pattern 32 p.rg) ++ b.put (off + 4) 4 (enc32 p.ell) ++
    (p.o.mapIdx (fun j v => b.put (off + 8 + 4 * j) 4 (enc32 v))).flatten

def Part.read (m : Mem) (b : Buf) (off d : Nat) : Part :=
  ⟨signed 32 (bytesAt m (b.span off 4)), dec32 (bytesAt m (b.span (off + 4) 4)),
   (List.range d).map (fun j => dec32 (bytesAt m (b.span (off + 8 + 4 * j) 4)))⟩

/-- Values of a record: the row sum, then the products. -/
def Part.vals (p : Part) : List Val := p.ell :: p.o

/-- The grain reference of R154. -/
def grainRef (tmax : Val) : Int :=
  match tmax with
  | .nan | .inf false => 2 ^ 30
  | .inf true => rgEmpty
  | .num n m e =>
    let c : Int := -((Val.num (!n) m e).floorInt)
    if c < -(2 ^ 30) then -(2 ^ 30) else if 2 ^ 30 < c then 2 ^ 30 else c

/-- Fold a partial into an accumulator record (R165). -/
def Part.fold (a p : Part) : Part :=
  if p.rg = rgEmpty then a
  else
    let rn := if a.rg < p.rg then p.rg else a.rg
    let term (g : Int) (v : Val) : Val := if g = rgEmpty then Val.zero else v.scale (g - rn)
    let mix (x y : Val) : Val := round32 ((term a.rg x).add (term p.rg y))
    ⟨rn, mix a.ell p.ell, (a.o.zip p.o).map (fun e => mix e.1 e.2)⟩

/-! ## One grain slot (R152 to R154) -/

/-- Sum chunks of kc products, anchored at the first, excluding those that are not live (R31, R153). -/
def chunkDot (kc : Nat) (live : List Bool) (ps : List Val) : Val :=
  let cs := chunksOf kc ps.length ((live.zip ps))
  cs.foldl (fun acc c => accChunk acc ((c.filter Prod.fst).map Prod.snd)) Val.zero

/-- The partial of one row: scores t over the grain, values by position and column (R153). -/
def rowPart (l : Bool) (live : List Bool) (t : List Val) (vals : List (List Val)) (d : Nat) : Part × List Val :=
  let tmax := t.foldl Val.max (.inf true)
  let rg := grainRef tmax
  let p := (live.zip t).map (fun e =>
    if e.1 then roundBf (builtin l .exp2 (round32 (e.2.sub (Val.ofInt rg)))) else Val.zero)
  let ell := round32 (rowStat .sum (log2Up p.length) p)
  let o := (List.range d).map (fun j => chunkDot 128 live ((p.zip vals).map (fun e => e.1.mul (e.2.getD j Val.zero))))
  (⟨rg, ell, o⟩, p)

/-- A grain slot of an attention op; `hdr` is the region header of SEQ, empty where it is not open. -/
def attnCell (l : Bool) (hdr : List Nat) (committed : Nat) (k : Core) (r : Run) : CellOut :=
  let w := r.op.w
  let d := descOf (descWords k (opLoop w))
  let st := match chainFor k (opEpi w) with | some ch => ch.stages.headD ⟨0, 0, 0, 0, 0⟩ | none => ⟨0, 0, 0, 0, 0⟩
  let gg := grainOf (fld st.param 21 20)
  let dd := headDim (fld st.param 2 0)
  let rolled := st.code == 0x21
  let slot := r.pos
  let gidx := r.op.bnd.getD (fld (opImm w 2) 31 27) 0 + slot * fld (opImm w 1) 31 16
  let g := fld (opImm w 1) 7 0 + 1
  let qbase := if bitAt (opImm w 2) 21 then r.op.bnd.getD (fld (opImm w 2) 26 22) 0 else committed
  let lm := (d.carrier 1).getD 0
  let m := r.bounds.getD lm 0
  let mrec := (d.level lm).max
  let kf := if hdr.isEmpty then opFmt w 1 else fmtOf (fld (hdr.getD 0 0) 4 0)
  let vf := if hdr.isEmpty then opFmt w 3 else fmtOf (fld (hdr.getD 0 0) 9 5)
  let step (dim : Nat) : Nat := match d.carrier dim with | some x => (d.level x).step | none => 1
  let idx (a b c : Nat) : List Nat := (List.range 6).map (fun x =>
    let lv := d.level x
    if x = opGlevel w then slot else if lv.dim = 1 then a / step 1 else if lv.dim = 2 then b / step 2
    else if lv.dim = 3 then c / step 3 else 0)
  let cb := bufOf k (opBuf w 2)
  let rec0 (row : Nat) : Nat := (if rolled then row else slot * mrec + row) * recBytes dd
  let old (row : Nat) : Part := if slot = 0 && !opAcc w then Part.empty dd else Part.read k.store cb (rec0 row) dd
  let oldRd (row : Nat) : List Nat := if rolled && !(slot = 0 && !opAcc w) then cb.span (rec0 row) (recBytes dd) else []
  if r.len ≤ gidx * gg then
    let cells := (List.range m).flatMap (fun row =>
      (if rolled then old row else Part.empty dd).cells cb (rec0 row))
    ⟨(List.range m).flatMap oldRd, 0, [.write 0 0 cells], [], []⟩
  else
    let n := min gg (r.len - gidx * gg)
    let bt := strmOf k r d 1 kf
    let xt := strmOf k r d 3 vf
    let keys := (List.range n).map (fun p => (List.range dd).map (fun c =>
      bt.read k.store (bt.bitOf d (idx 0 p c) 2 (p % step 2) (c % step 3))))
    let vals := (List.range n).map (fun p => (List.range dd).map (fun c =>
      xt.read k.store (xt.bitOf d (idx 0 p c) 2 (p % step 2) (c % step 3))))
    let vbf := vals.map (fun e => e.map (fun x => x.dequant .bf16))
    let kc := (chunkLen (opFmt w 0) (opFmt w 1)).getD 256
    let sigma := dec32 (opImm w 0)
    let rl (row : Nat) : List Nat := if st.buf2 = noBuf then [] else (bufOf k st.buf2).span (4 * row) 4
    let rows := (List.range m).map (fun row =>
      let q := (List.range dd).map (fun c => operand k l r d (idx row 0 c) 0 (opFmt w 0) 1 3 (row % step 1) (c % step 3))
      let lim := if st.buf2 = noBuf then 2 ^ 32 else bytesAt k.store (rl row)
      let live := (List.range gg).map (fun p =>
        let pos := gidx * gg + p
        decide (pos < r.len) && decide (pos < lim) && (fld st.param 23 22 != 1 || decide (pos ≤ qbase + row / g)))
      let t := live.mapIdx (fun p a =>
        if a then
          let ps := (q.zip (keys.getD p [])).map (fun e => e.1.v.mul e.2.v)
          mul32 (chunkDot kc (List.replicate dd true) ps) sigma
        else Val.inf true)
      let (part, p) := rowPart l live t (vbf.map (fun e => e.map Elem.v) ++ List.replicate (gg - n) []) dd
      let out := if rolled then (old row).fold part else part
      let fl := flagsOf q ||| (t ++ p ++ part.vals ++ out.vals).foldl (fun a v => a ||| nanFlag v) 0
      (out, t, p, readsOf q ++ rl row ++ oldRd row, fl))
    let sb := bufOf k st.buf1
    let half := (slot % 2) * (6 * mrec * gg)
    let cells := (rows.mapIdx (fun row e => e.1.cells cb (rec0 row))).flatten
    let scores := (rows.mapIdx (fun row e =>
      (e.2.1.mapIdx (fun p v => sb.put (half + 4 * (row * gg + p)) 4 (enc32 v))).flatten ++
      (e.2.2.1.mapIdx (fun p v => sb.put (half + 4 * mrec * gg + 2 * (row * gg + p)) 2 (encBf v))).flatten)).flatten
    let kv := keys.flatMap id ++ vals.flatMap id
    ⟨readsOf kv ++ rows.flatMap (fun e => e.2.2.2.1), rows.foldl (fun a e => a ||| e.2.2.2.2) (flagsOf kv ||| flagsOf (vbf.flatMap id)),
     [.write 0 0 scores, .write 0 0 cells], [], []⟩

/-! ## LWU (R160, R506) -/

def lwEnt (d row i : Nat) : Nat := 32 * ((1 + d) * row + i)
def fpEnt (d row i : Nat) : Nat := 4 * ((1 + d) * row + i)

/-- MERGE of one record into the words of a row (R161). -/
def mergeRec (ref : Int) (p : Part) (ws : List Lw × Nat) : List Lw × Nat :=
  if p.rg = rgEmpty then ws
  else
    let conv (v : Val) : Lw × Nat := if ref < p.rg then lwUnready v else lwOfVal v (p.rg - ref)
    let cs := p.vals.map conv
    ((ws.1.zip cs).map (fun e => e.1.add e.2.1), cs.foldl (fun a c => a ||| c.2) ws.2)

/-- What one row of an LWU op gives: bytes read, flags, bytes written. -/
structure LwuRow where
  rd : List Nat
  fl : Nat
  cells : List WByte
  deriving DecidableEq, Repr

/-- Where an LWU op's rows lie: its buffers, row stride in records, head dimension and slots (R506). -/
structure LwuGeo where
  a : Buf
  b : Buf
  c : Buf
  mrec : Nat
  dd : Nat
  ns : Nat
  acc : Bool
  deriving DecidableEq, Repr

def LwuGeo.recOff (g : LwuGeo) (s row : Nat) : Nat := (s * g.mrec + row) * recBytes g.dd
def LwuGeo.slots (g : LwuGeo) : List Nat := List.range g.ns
def LwuGeo.ents (g : LwuGeo) : List Nat := List.range (1 + g.dd)
/-- The LW192 entries of a row. -/
def LwuGeo.lws (g : LwuGeo) (m : Mem) (b : Buf) (row : Nat) : List Lw :=
  g.ents.map (fun i => Lw.decode (bytesAt m (b.span (lwEnt g.dd row i) 32)))
def LwuGeo.lwSpan (g : LwuGeo) (b : Buf) (row : Nat) : List Nat := b.span (lwEnt g.dd row 0) (32 * (1 + g.dd))
def LwuGeo.putLws (g : LwuGeo) (row : Nat) (ws : List Lw) : List WByte :=
  (ws.mapIdx (fun i x => g.c.put (lwEnt g.dd row i) 32 x.encode)).flatten
def LwuGeo.putFps (g : LwuGeo) (row : Nat) (vs : List Val) : List WByte :=
  (vs.mapIdx (fun i v => g.c.put (fpEnt g.dd row i) 4 (enc32 v))).flatten
def LwuGeo.ref (g : LwuGeo) (m : Mem) (row : Nat) : Int := signed 32 (bytesAt m (g.b.span (4 * row) 4))

/-- One row of an LWU opcode over the store as the rows before it left it (Table 6.5, R161, R165, R506). -/
def LwuGeo.row (g : LwuGeo) (op : Nat) (m : Mem) (row : Nat) : LwuRow :=
  match op with
  | 1 =>
    let x := (g.slots.map (fun s => signed 32 (bytesAt m (g.a.span (g.recOff s row) 4)))).foldl max rgEmpty
    ⟨g.slots.flatMap (fun s => g.a.span (g.recOff s row) 4), 0, g.c.put (4 * row) 4 (pattern 32 x)⟩
  | 2 =>
    let start := if g.acc then g.lws m g.c row else List.replicate (1 + g.dd) Lw.zero
    let out := g.slots.foldl (fun ws s => mergeRec (g.ref m row) (Part.read m g.a (g.recOff s row) g.dd) ws) (start, 0)
    ⟨g.slots.flatMap (fun s => g.a.span (g.recOff s row) (recBytes g.dd)) ++ g.b.span (4 * row) 4 ++
      (if g.acc then g.lwSpan g.c row else []), out.2, g.putLws row out.1⟩
  | 3 =>
    ⟨g.lwSpan g.a row ++ g.lwSpan g.b row, 0, g.putLws row ((g.lws m g.a row |>.zip (g.lws m g.b row)).map (fun e => e.1.add e.2))⟩
  | 4 =>
    let vs := (g.lws m g.a row).map Lw.round
    ⟨g.lwSpan g.a row, vs.foldl (fun f v => f ||| nanFlag v) 0, g.putFps row vs⟩
  | 5 =>
    let p := Part.read m g.a (g.recOff 0 row) g.dd
    let vs := p.vals.map (fun v => if p.rg = rgEmpty then Val.zero else round32 (v.scale (p.rg - g.ref m row)))
    ⟨g.a.span (g.recOff 0 row) (recBytes g.dd) ++ g.b.span (4 * row) 4, vs.foldl (fun f v => f ||| nanFlag v) 0, g.putFps row vs⟩
  | _ => ⟨[], 0, []⟩

/-- The store with whole bytes written. -/
def Mem.putCells (m : Mem) (cs : List WByte) : Mem := cs.foldl (fun m x => m.write x.addr x.val) m

/-- The whole of an LWU op, one tile: rows 0 to n - 1 in ascending order, each over what the rows before it wrote (R506). -/
def lwuCell (k : Core) (r : Run) : CellOut :=
  let w := r.op.w
  let d := descOf (descWords k (opLoop w))
  let lm := (d.carrier 1).getD 0
  let g : LwuGeo := ⟨bufOf k (opBuf w 0), bufOf k (opBuf w 1), bufOf k (opBuf w 2), (d.level lm).max,
    headDim (fld (opImm w 1) 2 0), opImm w 0, opAcc w⟩
  let out := (List.range (r.bounds.getD lm 0)).foldl (fun (z : Mem × List Nat × Nat × List WByte) row =>
    let x := g.row (opCode w) z.1 row
    (z.1.putCells x.cells, z.2.1 ++ x.rd, z.2.2.1 ||| x.fl, z.2.2.2 ++ x.cells)) (k.store, [], 0, [])
  ⟨out.2.1, out.2.2.1, [.write 0 0 out.2.2.2], [], []⟩

end Sys2Proof.Machine
end

