-- ==== Sys2Proof/Machine/Verify.lean ====
section
/-!
DEFINITION. PATTERN_VERIFY (R490, R491, Tables 18.6 and 21.9): its checks in the order of R490, each a test with its
check code. Checks of one entry stand in ascending chapter order (log 39).
-/
namespace Sys2Proof.Machine

/-- The first failure found (Table 18.6). -/
structure VFail where
  index : Nat
  table : Nat
  core : Nat
  check : Nat
  deriving DecidableEq, Repr

def VFail.word (f : VFail) : Nat := place f.index 32 + place f.table 24 + place f.core 16 + f.check

/-- The core as the image would load it; what the checks read of its control region. -/
def patCore (img : List Byte) (c : Nat) : Core := loadCore img 0 c Core.init

/-- Base of a core's control region; the top of the store where it has none (R49, R487). -/
def ctlBase (img : List Byte) (c : Nat) : Nat := ((sectFor img 1 c).map Sect.target).getD 0x600000

def patCores (img : List Byte) : List Nat := (List.range 64).filter (fun c => (sectFor img 1 c).isSome)

/-- Entry index of the first END, or the length of the list (R64). -/
def liveOps (k : Core) : List (List Nat) :=
  let ws := (List.range (ctlTable k 0).2).map (opWords k)
  let pre := ws.takeWhile (fun w => !(opEngine w == 0 && opCode w == 1))
  ws.take (pre.length + 1)

/-! ## Formats -/

/-- Region or source formats that widen exactly to a declared format (Table 6.11, R113). -/
def widenFrom : Fmt → List Fmt
  | .bf16 => [.bf16, .e4m3, .e5m2, .e3m2, .e2m3, .fp4]
  | .e4m3 => [.e4m3, .e3m2, .e2m3, .fp4]
  | .e5m2 => [.e5m2, .e3m2, .fp4]
  | .e3m2 => [.e3m2, .fp4]
  | .e2m3 => [.e2m3, .fp4]
  | .fp4 => [.fp4]
  | .mxE4m3 => [.mxE4m3, .mxE3m2, .mxE2m3, .mxfp4, .e4m3, .e3m2, .e2m3, .fp4]
  | .mxE5m2 => [.mxE5m2, .mxE3m2, .mxfp4, .e5m2, .e3m2, .fp4]
  | .mxE3m2 => [.mxE3m2, .mxfp4, .e3m2, .fp4]
  | .mxE2m3 => [.mxE2m3, .mxfp4, .e2m3, .fp4]
  | .mxfp4 => [.mxfp4, .fp4]
  | .mxint8 => [.mxint8]
  | .int8b => [.int8b, .int4b]
  | _ => []

/-- Shapes (Table 2.4): rows and columns. -/
def shapeDims : Nat → Nat × Nat
  | 0 => (128, 128) | 1 => (64, 256) | 2 => (256, 64) | 3 => (32, 512) | 4 => (16, 1024) | _ => (8, 2048)

/-! ## Chains -/

def codes (ch : Option Chain) : List Nat := (ch.map (fun c => c.stages.map Stage.code)).getD []
/-- The codes of an epilogue before any closing ROWSTAT or SEND. -/
def beforeTail (l : List Nat) : List Nat := (l.reverse.dropWhile (fun c => c == 0x14 || c == 0x15)).reverse
/-- Does an epilogue end in QUANT, or in QUANT followed only by ROWSTAT or SEND (R62). -/
def quantEnds (ch : Option Chain) : Bool := (beforeTail (codes ch)).getLast? == some 0x13

/-- KIND of the entries in which a stage code may stand (Table 4.3). -/
def stageKind : Nat → Option Nat
  | 0x01 | 0x02 | 0x03 | 0x04 => some 0
  | 0x10 | 0x11 | 0x12 | 0x13 | 0x14 | 0x15 | 0x20 | 0x21 => some 1
  | _ => none

/-- Reserved parameter bits and codes of a stage (Tables 4.3 and 6.3). -/
def stageParamBad (s : Stage) : Bool :=
  match s.code with
  | 0x01 | 0x02 | 0x11 | 0x13 => s.param != 0
  | 0x03 => fld s.param 23 10 != 0
  | 0x04 => fld s.param 22 3 != 0 || decide (4 < fld s.param 2 0)
  | 0x10 => fld s.param 23 5 != 0
  | 0x12 => fld s.param 23 3 != 0 || fld s.param 2 0 == 7
  | 0x14 => fld s.param 11 10 != 0 || fld s.param 23 22 == 3
  | 0x15 => fld s.param 9 0 != 0
  | _ => decide (1 < fld s.param 23 22) || fld s.param 19 9 != 0 || fld s.param 5 3 != 0 ||
      decide (5 < fld s.param 8 6) || decide (4 < fld s.param 2 0)

/-- Is a stage's FMT one to which the stage cannot round: INT4B, which is never written (R20), or a block-scaled format
outside the stages that carry or fix blocks, WIDEN and QUANT (R24, R110; log 87). -/
def stageFmtBad (kind : Nat) (s : Stage) : Bool :=
  let f := fmtOf s.fmt
  (kind == 1 && f == .int4b) ||
  (f.scaled && (s.code == 0x03 || s.code == 0x04 || s.code == 0x10 || s.code == 0x11 || s.code == 0x12))

/-- Does another op or stage of the pattern write the statistic buffer of an RMSNORM stage (R116). -/
def statWritten (img : List Byte) (c buf : Nat) : Bool :=
  let b := bufOf (patCore img c) buf
  let meets (x : Buf) : Bool := decide (x.base < b.base + b.size) && decide (b.base < x.base + x.size)
  (patCores img).any (fun d =>
    let k := patCore img d
    (liveOps k).any (fun w =>
      let epi := chainFor k (opEpi w)
      let x := bufOf k (opBuf w 2)
      (d == c && (opEngine w == 1 || opEngine w == 2) &&
        (epi.map Chain.stages).any (fun l => l.any (fun s =>
          s.code == 0x14 && fld s.param 23 22 == 0 && meets (bufOf k s.buf1)))) ||
      (opEngine w == 6 && opBuf w 2 != noBuf && meets x &&
        ((x.space == 0 && d == c && opCode w != 2) || (x.space == 1 && x.peer == c) ||
         (x.space == 0 && opCode w == 2 && (mcastCores w).contains c)))))

/-- Stage formats of a chain, each after the one before it, beginning at SRC_FMT. -/
def stagePairs (ch : Chain) : List (Nat × Stage) := ((ch.src :: ch.stages.map Stage.fmt).zip ch.stages)

/-- Is an FP32 word a positive normal number. -/
def posNormal (w : Nat) : Bool := decide (0x00800000 ≤ w) && decide (w < 0x7F800000)

/-- The checks of a chain entry that an op names (R104 to R106, R113, R116, R121 to R123, R129). -/
def chainCheck (img : List Byte) (c : Nat) (k : Core) (w : List Nat) : Option Nat :=
  let ch := chainOf w
  let h := w.getD 0 0
  let n := fld h 18 16
  let nbuf := (ctlTable k 2).2
  let fp (f : Nat) : Bool := decide (f ≤ 1)
  let rms := ch.stages.filter (fun s => s.code == 0x03)
  firstFail [
    (fld h 63 24 != 0 || fld h 15 3 != 0 || n == 0 || n == 7, ckField),
    ((List.range 6).any (fun i => decide (n ≤ i) && w.getD (1 + i) 0 != 0), ckField),
    ((List.range n).any (fun i => fld (w.getD (1 + i) 0) 38 32 != 0), ckField),
    (if ch.kind = 0 then fld h 2 1 == 3 else fld h 2 1 != 0, ckField),
    (ch.stages.any (fun s => stageKind s.code != some ch.kind), ckField),
    (ch.stages.any stageParamBad, ckField),
    (ch.stages.any (fun s => (stageBufs s).any (fun b => decide (nbuf ≤ b))), ckField),
    (ch.stages.any (fun s => s.buf2 != noBuf && decide (nbuf ≤ s.buf2) && (s.code == 0x20 || s.code == 0x21)), ckField),
    (rms.isEmpty && (ch.nrow != 0 || ch.eps != 0), ckField),
    (!rms.isEmpty && (!posNormal ch.eps || ch.nrow == 0 || decide (2 ^ 24 < ch.nrow) || decide (1 < rms.length)), ckField),
    (rms.any (fun s => !statWritten img c s.buf1), ckField),
    (decide (0x11 ≤ ch.src) || ch.stages.any (fun s => decide (0x11 ≤ s.fmt)), ckFormat),
    (ch.stages.any (fun s => s.code != 0x15 && (stageBufs s).any (fun b => (bufOf k b).space != 0)), ckFormat),
    (ch.kind == 1 && !fp ch.src, ckFormat),
    (ch.stages.any (stageFmtBad ch.kind), ckFormat),
    ((stagePairs ch).any (fun p => match p.2.code with
      | 0x01 => !(widenFrom (fmtOf p.2.fmt)).contains (fmtOf p.1)
      | 0x02 => !fp p.2.fmt
      | 0x10 => !fp (fld p.2.param 4 0)
      | 0x14 | 0x15 => p.2.fmt != p.1
      | _ => false), ckFormat),
    (((codes (some ch)).dropWhile (· != 0x13)).drop 1 |>.any (fun x => x != 0x14 && x != 0x15), ckFormat),
    (ch.stages.any (fun s => s.code == 0x14 && decide (fld s.param 21 12 < fld s.param 9 0)), ckFormat)]

/-! ## Descriptors, buffers, pointer lists -/

def descReserved (w : List Nat) : Bool :=
  let q (i : Nat) : Nat := w.getD i 0
  fld (q 0) 63 36 != 0 || fld (q 3) 63 8 != 0 || fld (q 5) 63 32 != 0 || q 6 != 0 || q 7 != 0 ||
  (List.range 6).any (fun n => fld (q (9 + 4 * n)) 63 21 != 0)

def isPerm (o : Nat) : Bool := (List.range 6).all (fun l => (orderOf o).contains l)

/-- R73 to R76, R82, R85; `base` is the control region's, where the data region ends. -/
def descCheck (base : Nat) (w : List Nat) : Option Nat :=
  let d := descOf w
  let dims := (d.levels.map Level.dim).filter (· != 0)
  firstFail [
    (descReserved w, ckField),
    (!dims.Nodup, ckField),
    (d.levels.any (fun l => l.max == 0 || l.step == 0 || (l.dim == 0 && l.step != 1)), ckField),
    (!isPerm d.issue || !isPerm d.tmv, ckField),
    (d.levels.any (fun l => l.snake && l.dim == 3), ckField),
    (decide (1 < (d.levels.filter (fun l => l.src == 3)).length), ckBound),
    (d.levels.any (fun l => l.src == 0 && decide (l.max < l.bound)), ckBound),
    (d.levels.any (fun l => l.src == 2 && l.bound % 4 != 0), ckAlign),
    (d.levels.any (fun l => l.src == 2 && decide (base < l.bound + 4)), ckBound)]

/-- R49, R80, R81, R223, R251. -/
def bufCheck (img : List Byte) (c : Nat) (w : List Nat) : Option Nat :=
  let b := bufOfWords w
  let top := match b.space with
    | 0 => some (ctlBase img c)
    | 1 => some (ctlBase img b.peer)
    | 2 => some (patExplicit img)
    | 3 => some dramBytes
    | _ => none
  firstFail [
    (fld (w.getD 1 0) 63 53 != 0 || fld (w.getD 1 0) 47 40 != 0 || fld (w.getD 2 0) 63 6 != 0 || w.getD 3 0 != 0, ckField),
    (decide (5 < b.space) || b.size == 0 || (b.space != 1 && b.peer != 0), ckField),
    (top.any (fun t => decide (t < b.base + b.size)), ckRange),
    (decide (b.space ≤ 1) && b.base % 64 != 0, ckAlign)]

/-- Does a pointer list entry of the pattern name a sequence above 4,095 (R176). -/
def entrySeqBad (k : Core) (b : Buf) (e : Nat) : Bool :=
  let q := (entryWords k b e).getD 3 0
  (fld q 63 62 == 1 || fld q 63 62 == 2) && decide (4095 < fld q 47 32)

/-- R86, R87, R176; the entries are those that the pattern itself loads (log 88). -/
def plistCheck (k : Core) (w : List Nat) : Option Nat :=
  let p0 := w.getD 0 0
  let p1 := w.getD 1 0
  let b := fld p1 9 0
  let mx := fld p0 47 32
  let live := if bitAt p1 10 then mx else fld p0 31 0
  firstFail [
    (fld p0 63 48 != 0 || fld p1 63 11 != 0 || mx == 0 || decide (4096 < mx) || decide ((ctlTable k 2).2 ≤ b) ||
      (bufOf k b).space != 0, ckField),
    (!bitAt p1 10 && decide (mx < fld p0 31 0), ckBound),
    (decide ((bufOf k b).size < 32 * mx), ckBound),
    ((List.range live).any (entrySeqBad k (bufOf k b)), ckField)]

/-! ## Control ops -/

/-- A control op beyond R61 (R63, R94): it has no waits, no signals and no engine's fields. -/
def csqCheck (base : Nat) (w : List Nat) : Option Nat :=
  let a := opImm w 1
  firstFail [
    (!(opWaits w).isEmpty || (opSig w 0).isSome || (opSig w 1).isSome || opWctrEn w || opPro w != 0 || opEpi w != 0 ||
      opLoop w != 0 || opShape w != 0 || opAcc w || (List.range 4).any (fun i => opFmtCode w i != 0), ckField),
    (opCode w == 4 && a % 4 != 0, ckAlign),
    (opCode w == 4 && decide (base < a + 4), ckBound),
    (opCode w == 5 && !bitAt (opImm w 2) 31 && (a == 0 || decide (65536 < a)), ckBound)]

/-! ## Streams of an op -/

def maxes (d : Desc) : List Nat := d.levels.map Level.max

/-- Maximum of a dimension's bound; 1 where no level carries it. -/
def maxOf (d : Desc) (dim : Nat) : Nat := match d.carrier dim with | some l => (d.level l).max | none => 1

/-- Least and greatest bits that one tile of a stream reaches at the declared maxima (R81). -/
def tileSpan (w : List Nat) (d : Desc) (i : Nat) (f : Fmt) : Option (Int × Int) :=
  let order := d.order (opEngine w == 6)
  streamSpan w d (maxes d) i f 0 (order.take (tilePos order (opTileLevel w)))

/-- Does stream i reach outside its buffer at the declared maxima (R81). -/
def outside (hdr : List Nat) (k : Core) (w : List Nat) (d0 : Desc) (i : Nat) : Bool :=
  let d := vDesc k w d0 i
  let b := bufOf k (opBuf w i)
  let f := vFmt hdr k w i
  if b.wrap then
    match tileSpan w d i f with
    | some (lo, hi) => decide ((b.size : Int) < hi / 8 - lo / 8 + 1)
    | none => false
  else match streamSpan w d (maxes d) i f 0 (List.range 6) with
    | some (lo, hi) => !b.covers lo hi
    | none => false

/-- Does a later tile of a sub-byte stream begin off a byte boundary (R81, log 39). -/
def offByte (hdr : List Nat) (k : Core) (w : List Nat) (d0 : Desc) (i : Nat) : Bool :=
  let d := vDesc k w d0 i
  let f := vFmt hdr k w i
  match d.carrier (contigDim w d i) with
  | some l => decide (f.bits < 8) && decide ((d.level l).step < (d.level l).max) && (d.level l).step * f.bits % 8 != 0
  | none => false

/-- ROWS_s names a dimension that the stream spans, or is 0 for one of a single dimension (R74). -/
def rowsBad (w : List Nat) (d : Desc) (i : Nat) : Bool :=
  let sp := spans w i
  let r := d.rows.getD i 0
  if sp.length = 1 then r != 0 else !sp.contains r

/-- Is a scale entry of a stream outside its buffer at the declared maxima: of the whole op, or for a WRAP buffer of one
tile (R62, R81). -/
def scaleOut (w : List Nat) (d : Desc) (i : Nat) (f : Fmt) (b : Buf) : Bool :=
  let n (z : Int) : Int := z / 8 / (f.b32 : Int)
  if b.wrap then match tileSpan w d i f with
    | some (lo, hi) => decide ((b.size : Int) < (n hi - n lo + 1) * (f.scaleBytes : Int))
    | none => false
  else match streamSpan w d (maxes d) i f 0 (List.range 6) with
    | some (lo, hi) => !b.coversScale f lo hi
    | none => false

/-- Does a block-scaled stream break the conditions of R62 on its contiguous dimension, pitch and strides: K for a matrix
operand (R17), N where QUANT writes C (R121). -/
def blocksBad (k : Core) (w : List Nat) (d : Desc) (i : Nat) (f : Fmt) : Bool :=
  let quant := i == 2 && quantEnds (chainFor k (opEpi w))
  d.pitch.getD i 0 % f.b32 != 0 || d.levels.any (fun l => l.stride.getD i 0 % (f.b32 : Int) != 0) ||
  (quant && contigDim w d i != 2) || (opEngine w == 1 && i ≤ 1 && contigDim w d i != 3)

/-- The scale rules of R62 on one stream: a format incompatibility, then a scale entry outside its buffer. Where an open
region stores unscaled elements for a declared MX format, the op's scale buffer goes unused (R171, log 118). -/
def scaleCheck (hdr : List Nat) (k : Core) (w : List Nat) (d0 : Desc) (i : Nat) : List (Bool × Nat) :=
  let f := vFmt hdr k w i
  let d := vDesc k w d0 i
  let none_ := opSbuf w i == noBuf
  if i = 2 && f == .int4b then [(true, ckFormat)]
  else if i = 2 && quantEnds (chainFor k (opEpi w)) then [(!none_ || (f.scaled && blocksBad k w d i f), ckFormat)]
  else if !f.scaled then [(!none_ && !(vFmt [] k w i).scaled, ckFormat)]
  else
    let b := bufOf k (opSbuf w i)
    [(none_ || b.space != 0 || blocksBad k w d i f, ckFormat), (scaleOut w d i f b, ckRange)]

/-- What R62 asks of stream C of a matrix op, whether or not it names a buffer. -/
def mxuScaleC (k : Core) (w : List Nat) : Bool :=
  ((opFmt w 2).scaled && !quantEnds (chainFor k (opEpi w))) || opSbuf w 2 != noBuf

/-! ## Engines -/

/-- R32, R74 for a matrix op other than ATTN. -/
def mxuCheck (w : List Nat) (d : Desc) : List (Bool × Nat) :=
  let kc := chunkLen (opFmt w 0) (opFmt w 1)
  let (m, n) := shapeDims (opShape w)
  let step (dim : Nat) : Nat := match d.carrier dim with | some l => (d.level l).step | none => 0
  [(step 1 != m || step 2 != n || step 3 != kc.getD 0, ckField),
   (opImm w 0 != 0 || opImm w 1 != 0 || opImm w 2 != 0, ckField)]

/-- R150, R151, R158, R172 for an attention op; that its prologue is one of stream A is read from R150 (log 89). -/
def attnCheck (hdr : List Nat) (k : Core) (w : List Nat) (d : Desc) : List (Bool × Nat) :=
  let ch := chainFor k (opEpi w)
  let st := (ch.map Chain.stages).getD []
  let s := st.headD ⟨0, 0, 0, 0, 0⟩
  let gl := opGlevel w
  let g := grainOf (fld s.param 21 20)
  let dd := headDim (fld s.param 2 0)
  let lv (dim : Nat) : Level := match d.carrier dim with | some l => d.level l | none => ⟨0, 0, 0, 0, 0, false, [0, 0, 0, 0]⟩
  let mrec := (lv 1).max
  let ord := orderOf d.issue
  let rolled := s.code == 0x21
  let cb := bufOf k (opBuf w 2)
  let block := mrec * recBytes dd
  let q0 := hdr.getD 0 0
  [(fld (opImm w 1) 12 8 != 0 || fld (opImm w 2) 20 16 != 0 || fld (opImm w 1) 31 16 == 0 || opWctrEn w || opPlist w != 0xFF,
      ckField),
   (decide (4095 < fld (opImm w 2) 15 0), ckField),
   (d.rows.getD 1 0 != 2 || d.rows.getD 3 0 != 2, ckField),
   (cb.space != 0, ckField),
   ((chainFor k (opPro w)).any (fun p => p.stream != 0), ckField),
   (st.length != 1 || !(s.code == 0x20 || s.code == 0x21) || (ch.map Chain.src) != some 0 || s.fmt != 0 || opFmtCode w 2 != 0,
      ckFormat),
   ((lv 1).step != (shapeDims (opShape w)).1 || (lv 2).step != (shapeDims (opShape w)).2 ||
      (lv 3).step != (chunkLen (opFmt w 0) (opFmt w 1)).getD 0, ckField),
   (g % (shapeDims (opShape w)).2 != 0, ckFormat),
   ((lv 2).src != 0 || (lv 2).bound != g || (lv 2).max != g, ckFormat),
   ((lv 3).src != 0 || (lv 3).bound != dd || (lv 3).max != dd, ckFormat),
   ((ord.take 3).map some != [d.carrier 3, d.carrier 2, d.carrier 1], ckFormat),
   (decide (5 < gl) || (d.level gl).dim != 0 || (ord.take 3).contains gl, ckFormat),
   (opTileLevel w != gl, ckFormat),
   (decide (4096 < mrec) || mrec % (fld (opImm w 1) 7 0 + 1) != 0, ckFormat),
   (decide ((ctlTable k 2).2 ≤ s.buf1) || (s.buf2 != noBuf && decide ((ctlTable k 2).2 ≤ s.buf2)), ckField),
   ((bufOf k s.buf1).space != 0 || (s.buf2 != noBuf && (bufOf k s.buf2).space != 0), ckFormat),
   (decide ((bufOf k s.buf1).size < 12 * mrec * g), ckRange),
   (if cb.wrap then cb.size % block != 0 || decide (cb.size < 2 * block)
    else decide (cb.size < (if rolled then 1 else (d.level gl).max) * block), ckRange),
   (!hdr.isEmpty && (fld q0 11 10 != fld s.param 21 20 || !(widenFrom (opFmt w 1)).contains (fmtOf (fld q0 4 0)) ||
      !(widenFrom (opFmt w 3)).contains (fmtOf (fld q0 9 5))), ckFormat)]

/-- R130, R146. -/
def sfuCheck (p : Rudiments) (w : List Nat) : List (Bool × Nat) :=
  let rud := opCode w == 0x10
  [((if rud then fld (opImm w 0) 31 8 != 0 else opImm w 0 != 0) || opImm w 1 != 0 || opImm w 2 != 0, ckField),
   (decide (1 < opFmtCode w 0) || decide (1 < opFmtCode w 2), ckFormat),
   (rud && p.dir.all (fun e => e.id != opImm w 0 % 256), ckRud)]

/-- Bytes that an LWU stream reaches at the declared maxima (R506). -/
def lwuNeed (w : List Nat) (d : Desc) (i : Nat) : Nat :=
  let n := maxOf d 1
  let dd := headDim (fld (opImm w 1) 2 0)
  let recs (slots : Nat) : Nat := slots * n * recBytes dd
  match opCode w, i with
  | 1, 0 | 2, 0 => recs (opImm w 0)
  | 5, 0 => recs 1
  | 1, 2 | 2, 1 | 5, 1 => 4 * n
  | 4, 2 | 5, 2 => 4 * (1 + dd) * n
  | _, _ => 32 * (1 + dd) * n

/-- R506. -/
def lwuCheck (k : Core) (w : List Nat) (d : Desc) : List (Bool × Nat) :=
  let two := opCode w == 1 || opCode w == 4
  let streams := if two then [0, 2] else [0, 1, 2]
  let slots := opCode w == 1 || opCode w == 2
  [((List.range 4).any (fun i => opFmtCode w i != 0) || (opAcc w && opCode w != 2) || opPlist w != 0xFF || opWctrEn w ||
      opPro w != 0 || opEpi w != 0 || opBuf w 3 != noBuf || (List.range 4).any (fun i => opSbuf w i != noBuf) ||
      (two && opBuf w 1 != noBuf), ckField),
   (fld (opImm w 1) 31 3 != 0 || decide (4 < fld (opImm w 1) 2 0) || opImm w 2 != 0 ||
      (if slots then opImm w 0 == 0 || decide (65535 < opImm w 0) else opImm w 0 != 0), ckField),
   ((d.carrier 1).isNone || d.levels.any (fun l => l.stride.any (· != 0) ||
      (l.dim != 1 && (l.dim != 0 || l.src != 0 || l.bound != 1 || l.max != 1))), ckField),
   (streams.any (fun i => (bufOf k (opBuf w i)).space != 0), ckField),
   (streams.any (fun i => let b := bufOf k (opBuf w i); !b.wrap && decide (b.size < lwuNeed w d i)), ckRange)]

/-- R203 to R205, R213. -/
def tmvCheck (img : List Byte) (c : Nat) (k : Core) (w : List Nat) : List (Bool × Nat) :=
  let drain := fld (opImm w 0) 15 0
  let a := bufOf k (opBuf w 0)
  let z := bufOf k (opBuf w 2)
  let mask := opImm w 1 + opImm w 2 * 2 ^ 32
  let mc := opCode w == 2
  let host := a.space == 5 || z.space == 5
  [(fld (opImm w 0) 31 25 != 0 || opBuf w 3 != noBuf, ckField),
   (opPro w != 0 || opEpi w != 0, ckField),
   (drain != 0 && !(opSig w 0).any Prod.fst, ckField),
   (if mc then mask == 0 || (mcastCores w).any (fun x => !(patCores img).contains x) || fld (w.getD 3 0) 21 16 != 0 ||
      z.space != 0 else mask != 0, ckField),
   (opCode w == 3 && a.space != 3, ckField),
   ((List.range 4).any (fun i => opSbuf w i != noBuf), ckFormat),
   (opFmtCode w 0 != opFmtCode w 2 || (opFmt w 0).scaled, ckFormat),
   (host && decide (declTags img c < fld (opImm w 0) 24 16 + 1), ckTags)]

/-- Is the N maximum of an RSU op beyond the rows that the RSU accepts (R36; log 90). -/
def rsuCheck (d : Desc) : List (Bool × Nat) := [(decide (2 ^ 24 < maxOf d 2), ckBound)]

/-! ## Chains as an op uses them (R106, R111, R129) -/

/-- Does a SWIGLU stage meet an N step or N maximum that is no multiple of its 2G; each stage halves the columns of the
next (R120, R129). -/
def swigluBad (d : Desc) : List Stage → Bool
  | [] => false
  | s :: rest =>
    let g := 2 * 2 ^ fld s.param 2 0
    (match d.carrier 2 with | some l => (d.level l).step % g != 0 | none => true) || maxOf d 2 % g != 0 ||
      swigluBad (halveN d) rest

def opChainCheck (k : Core) (w : List Nat) (d : Desc) : List (Bool × Nat) :=
  let pro := chainFor k (opPro w)
  let epi := chainFor k (opEpi w)
  let lastF (c : Option Chain) : Nat := ((c.bind (fun x => x.stages.getLast?)).map Stage.fmt).getD 0
  let st (code : Nat) : Option Stage := epi.bind (fun x => x.stages.find? (fun s => s.code == code))
  let grain := (codes epi).any (fun x => x == 0x20 || x == 0x21)
  let ps := (pro.map Chain.stream).getD 0
  [((opPro w != 0 || opEpi w != 0) && opEngine w != 1 && opEngine w != 2, ckFormat),
   ((pro.map Chain.kind).any (· != 0) || (epi.map Chain.kind).any (· != 1), ckField),
   (pro.isSome && lastF pro != opFmtCode w ps, ckFormat),
   (epi.isSome && lastF epi != opFmtCode w 2, ckFormat),
   (opAcc w && epi.any (fun x => x.src != 0 || x.stages.any (fun s => s.fmt != 0)), ckFormat),
   (grain && !opAttn w, ckFormat),
   (swigluBad d (((epi.map Chain.stages).getD []).filter (fun s => s.code == 0x12)), ckFormat),
   (pro.any (fun x => x.stages.any (fun s => s.code == 0x04 &&
      maxOf d (contigDim w d x.stream) % headDim (fld s.param 2 0) != 0)), ckFormat),
   ((st 0x14).isSome && decide (4096 < maxOf d 1), ckFormat)]

/-! ## Waits (R66, R84) -/

/-- Cores, pairs, sides and whether per tile, that an op signals (R55, R123, R210). -/
def opSignals (k : Core) (w : List Nat) : List (Nat × Nat × Bool × Bool) :=
  let one (i : Nat) : List (Nat × Nat × Bool × Bool) := match opSig w i with
    | some (t, g) => [(g.core, g.pair, g.side, t)]
    | none => []
  let s0 := if opEngine w = 6 && opCode w = 2 then
      (one 0).flatMap (fun x => (mcastCores w).map (fun c => (c, x.2)))
    else one 0
  let send := ((chainFor k (opEpi w)).map Chain.stages).getD []
  s0 ++ one 1 ++ (send.filter (fun s => s.code == 0x15 && bitAt s.param 23)).map (fun s =>
    (fld s.param 15 10, fld s.param 21 16, bitAt s.param 22, true))

/-- An op of the pattern with what it signals. -/
structure VSrc where
  core : Nat
  idx : Nat
  sig : Nat × Nat × Bool × Bool
  deriving DecidableEq, Repr

def patSources (img : List Byte) : List VSrc :=
  (patCores img).flatMap (fun c =>
    let k := patCore img c
    (((liveOps k).mapIdx (fun i w => (i, w))).filter (fun e => opEngine e.2 != 0)).flatMap (fun e =>
      (opSignals k e.2).map (fun g => ⟨c, e.1, g⟩)))

def gongsBefore (ops : List (List Nat)) (i : Nat) : Nat := ((ops.take i).filter (isCtlCode 2)).length
where isCtlCode (n : Nat) (w : List Nat) : Bool := opEngine w == 0 && opCode w == n

/-- Is source op j held behind op i of the same core until i has met its wait: in the same queue, or behind a GONG, a
BNDLOAD or a full queue; a per-tile wait lets i leave the queue first (R63 to R67, log 39). -/
def heldBehind (ops : List (List Nat)) (i j : Nat) (tile : Bool) : Bool :=
  let e := opEngine (ops.getD i [])
  let mid := (ops.take j).drop (i + 1)
  if j < i then false
  else j == i || opEngine (ops.getD j []) == e ||
    mid.any (fun w => opEngine w == 0 && (opCode w == 2 || opCode w == 4)) ||
    decide ((if tile then 9 else 8) ≤ (mid.filter (fun w => opEngine w == e)).length)

/-- R66 for op i of core c: does some wait have no source that can come. -/
def waitUnmet (img : List Byte) (srcs : List VSrc) (c i : Nat) (ops : List (List Nat)) (w : List Nat) : Bool :=
  (opWaits w).any (fun x =>
    let init := if x.side then declEmpty img c x.pair else declFull img c x.pair
    let ext := (declExternal img c).testBit x.pair || (declStroke img c).testBit x.pair
    let att := (attachesOf img).any (fun a => a.out && a.core == c && a.pair == x.pair && a.side == x.side)
    let op := srcs.any (fun s =>
      s.sig.1 == c && s.sig.2.1 == x.pair && s.sig.2.2.1 == x.side &&
      (if s.core = c then !heldBehind ops i s.idx x.tile
       else decide (gongsBefore (liveOps (patCore img s.core)) s.idx ≤ gongsBefore ops i)))
    !(decide (x.count ≤ init) || ext || att || op))

/-- R84: an op that shares the descriptor and feeds this op's per-tile wait walks another order from TILE_LEVEL outward. -/
def ordersDiffer (c : Nat) (k : Core) (ops : List (List Nat)) (w : List Nat) : Bool :=
  let tail (v : List Nat) : List Nat :=
    let o := (descOf (descWords k (opLoop v))).order (opEngine v == 6)
    o.drop (tilePos o (opTileLevel v))
  let feeds (a b : List Nat) : Bool :=
    (opSignals k a).any (fun g => g.1 == c && g.2.2.2 &&
      (opTileWaits b).any (fun x => x.pair == g.2.1 && x.side == g.2.2.1))
  ops.any (fun v => opEngine v != 0 && opLoop v == opLoop w && (feeds v w || feeds w v) && tail v != tail w)

/-! ## One op -/

/-- Everything of TABLE 0 that one op is checked for. -/
def opCheck (s : State) (img : List Byte) (srcs : List VSrc) (c : Nat) (k : Core) (ops : List (List Nat)) (i : Nat)
    (w : List Nat) : Option Nat :=
  match r61 k w with
  | some x => some x
  | none =>
    if opEngine w = 0 then csqCheck (ctlBase img c) w
    else
      let d := descOf (descWords k (opLoop w))
      let e := opEngine w
      let seq := fld (opImm w 2) 15 0
      let hdr := if opAttn w && (Table.get Lens.init s.kv.lens seq).isOpen then Table.get [] s.kv.hdrs seq else []
      let st := vStreams k w
      let own := match e with
        | 1 => if opAttn w then attnCheck hdr k w d else mxuCheck w d
        | 3 => sfuCheck s.rud w
        | 4 => rsuCheck d
        | 5 => lwuCheck k w d
        | 6 => tmvCheck img c k w
        | _ => []
      firstFail (
        [(e == 1 && (chunkLen (opFmt w 0) (opFmt w 1)).isNone, ckFormat),
         (decide (5 < opTileLevel w) || (e != 1 && opShape w != 0) || (opAcc w && e != 1 && e != 5), ckField),
         (e == 1 && d.carrier 3 != (orderOf d.issue).head?, ckField),
         (e != 6 && e != 5 && st.any (fun j => (bufOf k (opBuf w j)).space != 0), ckField),
         (st.any (rowsBad w d), ckField),
         ((e == 2 || e == 3 || e == 4 || e == 6) && (d.carrier 3).isSome, ckField),
         (opPlist w == 0xFF && d.levels.any (fun l => l.src == 3), ckBound)] ++ own ++ opChainCheck k w d ++
        [(e == 1 && mxuScaleC k w, ckFormat)] ++ (if e = 5 || e = 6 then [] else st.flatMap (scaleCheck hdr k w d)) ++
        [(e != 5 && st.any (outside hdr k w d), ckRange),
         (e != 5 && st.any (offByte hdr k w d), ckAlign),
         (waitUnmet img srcs c i ops w || ordersDiffer c k ops w, ckSem),
         (opWctrEn w && (ops.take i).any (fun v => opEngine v != 0 && opWctrEn v && opWctr v == opWctr w), ckCounter)])

/-! ## One core -/

/-- The first entry of a list that fails. -/
def firstEntry (table core : Nat) (chk : Nat → Option Nat) (is : List Nat) : Option VFail :=
  is.findSome? (fun i => (chk i).map (fun x => ⟨i, table, core, x⟩))

/-- Most entries of the control tables (Table 21.7). -/
def tableMax : List Nat := [8192, 256, 1023, 256, 255]

def coreCheck (s : State) (img : List Byte) (srcs : List VSrc) (c : Nat) : Option VFail :=
  let k := patCore img c
  let n (t : Nat) : Nat := (ctlTable k t).2
  let len := 0x600000 - ctlBase img c
  let ops := liveOps k
  let all := (List.range (n 0)).map (opWords k)
  let overs (t : Nat) : Option VFail := if tableMax.getD t 0 < n t then some ⟨0, t, c, ckCount⟩ else none
  let hasEnd := all.any (fun w => opEngine w == 0 && opCode w == 1)
  let named := (List.range 256).filter (fun i => i != 0 &&
    all.any (fun w => opEngine w != 0 && (opPro w == i || opEpi w == i)))
  (if len % 65536 ≠ 0 || 2 ^ 20 < len then some ⟨0, 0, c, ckCount⟩ else none)
  <|> overs 0
  <|> firstEntry 0 c (fun i => opCheck s img srcs c k ops i (opWords k i)) (List.range (n 0))
  <|> (if hasEnd then none else some ⟨n 0 - 1, 0, c, ckField⟩)
  <|> overs 1
  <|> firstEntry 1 c (fun i => descCheck (ctlBase img c) (descWords k i)) (List.range (n 1))
  <|> overs 2
  <|> firstEntry 2 c (fun i => bufCheck img c (bufWords k i)) (List.range (n 2))
  <|> overs 3
  <|> firstEntry 3 c (fun i => chainCheck img c k (chainWords k i)) named
  <|> overs 4
  <|> firstEntry 4 c (fun i => plistCheck k (plistWords k i)) (List.range (n 4))

/-! ## Device-wide checks -/

/-- Streams through which an op reads or writes a buffer that it names, by R79 or by records (Tables 3.13, 6.1, R506). -/
def readStreams (k : Core) (w : List Nat) : List Nat :=
  if opEngine w = 5 then (needsBuf k w) else vStreams k w

/-- R300. -/
def bindCheck (img : List Byte) (bs : List Binding) (i : Nat) : Option Nat :=
  match bs[i]? with
  | none => none
  | some b =>
    let k := patCore img b.core
    let reads := (liveOps k).any (fun w => opEngine w != 0 &&
      (readStreams k w).any (fun j => j != 2 && opBuf w j == b.buf))
    firstFail [
      (!(patCores img).contains b.core || b.rsv != 0 || b.ax == 3 || decide ((ctlTable k 2).2 ≤ b.buf), ckField),
      ((bufOf k b.buf).space == 1 || (bufOf k b.buf).space == 5, ckField),
      (reads || (bs.take i).any (fun a => a.core == b.core && a.buf == b.buf) || (b.mode == 3 && decide (4095 < b.arg)), ckField)]

/-- R318. -/
def attachCheck (img : List Byte) (as : List Attach) (i : Nat) : Option Nat :=
  match as[i]? with
  | none => none
  | some a =>
    let spill := match spillDecl img with
      | none => true
      | some (c, b) =>
        let k := patCore img c
        decide ((ctlTable k 2).2 ≤ b) || (bufOf k b).space != 0 || decide ((bufOf k b).size < 131072)
    firstFail [
      (spill || a.rsv != 0 || decide ((ctlTable (patCore img a.core) 2).2 ≤ a.buf), ckField),
      ((as.take i).any (fun x => x.pop == a.pop && x.out == a.out), ckField)]

/-- R491: layers that a core serves, as a number. -/
def declLayers (img : List Byte) (c : Nat) : Nat := declNum img c 0 32

def stageBad (img : List Byte) : Bool :=
  let w := wordOf img 2
  let lf := fld w 31 24
  let ll := fld w 23 16
  let served (l : Nat) : Bool := (List.range 64).any (fun c => (declLayers img c).testBit l)
  decide (ll < lf) || patSpares img == allBits ||
  (List.range (ll + 1 - lf)).any (fun i => !served (lf + i)) ||
  (List.range 64).any (fun c => (setBits 256 (declLayers img c)).any (fun l => decide (l < lf) || decide (ll < l))) ||
  (patCores img).any (fun c => declLayers img c == 0 || (patSpares img).testBit c)

/-- What two ops of one counter must agree in (R98). -/
def counterKey (k : Core) (w : List Nat) : List Nat :=
  opCode w :: (List.range 4).map (opFmtCode w) ++ descWords k (opLoop w) ++
    (if opBuf w 2 = noBuf then [] else bufWords k (opBuf w 2))

/-- The first op, by core and index, that disagrees with an earlier one of its counter on another core. -/
def counterFail (img : List Byte) : Option VFail :=
  let all := (patCores img).flatMap (fun c =>
    let k := patCore img c
    ((liveOps k).mapIdx (fun i w => (i, w))).filterMap (fun e =>
      if opEngine e.2 != 0 && opWctrEn e.2 then some (opWctr e.2, e.1, counterKey k e.2) else none))
  (all.mapIdx (fun j x => (j, x))).findSome? (fun e =>
    if (all.take e.1).any (fun y => y.1 == e.2.1 && y.2.2 != e.2.2.2) then some ⟨e.2.2.1, 0, 0xFF, ckCounter⟩ else none)

/-- The whole of PATTERN_VERIFY: the first failure, if any (R490). -/
def State.verify (s : State) : Option VFail :=
  let img := s.pat.image
  let srcs := patSources img
  let bs := bindingsOf img
  let as := attachesOf img
  let tags := ((List.range 64).map (declTags img)).foldl (· + ·) 0
  (if patSfu img ≠ b2n s.profileL then some ⟨0, 7, 0xFF, ckFormat⟩ else none)
  <|> (patCores img).findSome? (coreCheck s img srcs)
  <|> firstEntry 5 0xFF (bindCheck img bs) (List.range bs.length)
  <|> firstEntry 6 0xFF (attachCheck img as) (List.range as.length)
  <|> (if 1792 < tags then some ⟨0, 7, 0xFF, ckTags⟩ else none)
  <|> (if stageBad img then some ⟨0, 7, 0xFF, ckStage⟩ else none)
  <|> counterFail img

end Sys2Proof.Machine
end

