-- ==== Sys2Proof/Machine/PatternCmds.lean ====
section
/-!
DEFINITION. The pattern commands (R145, R146, R189, R429, R433, R486 to R491).
-/
namespace Sys2Proof.Machine

/-- What a command of the Single class answers: the state it leaves, STATUS and result bytes. -/
structure Ans where
  s : State
  code : Nat
  detail : Nat
  bytes : List Byte
  deriving DecidableEq, Repr

def Ans.fail (s : State) (code : Nat) : Ans := ⟨s, code, 0, []⟩
def Ans.ok (s : State) (bytes : List Byte) : Ans := ⟨s, stOk, 0, bytes⟩
/-- Complete mailbox n with the answer (R412). -/
def Ans.reply (a : Ans) (n : Nat) : State := a.s.reply n a.code a.detail a.bytes 0

/-! ## The image's own form (R486 to R488) -/

/-- Offsets at which the sections end, and whether each header and body lies within the image. -/
def sectsFit (img : List Byte) : Nat → Nat → Option Nat
  | 0, o => some o
  | n + 1, o =>
    if img.length < o + 16 then none
    else
      let z := o + 16 + fld (wordOf (img.drop o) 0) 31 0
      if img.length < z then none else if n = 0 then some z else sectsFit img n (roundUp z 8)

/-- Is a reserved field of the image header not 0: a check of R415 that comes before those of the command (R9, Table 21.5). -/
def patHeaderRsv (img : List Byte) : Bool :=
  let w (i : Nat) : Nat := wordOf img i
  fld (w 2) 39 32 != 0 || fld (w 2) 15 3 != 0 || fld (w 9) 63 8 != 0 || (List.range 6).any (fun i => w (10 + i) != 0)

/-- Does the image header break R486 (Table 21.5). -/
def patHeaderBad (img : List Byte) : Bool :=
  let w (i : Nat) : Nat := wordOf img i
  let n := fld (w 0) 15 0
  decide (img.length < 128) || decide (2 ^ 29 < img.length) || fld (w 0) 63 32 != 0x0F249A77 || fld (w 0) 31 16 != 1 ||
  n == 0 || decide (1024 < n) || w 1 != img.length || patHeaderRsv img ||
  decide (1000 < fld (w 4) 15 0) || decide (56 < fld (w 9) 7 0) ||
  decide (786432 < patPoolFirst img + patPoolCount img) || sectsFit img n 128 != some img.length

/-- The directory of a control region (R488): reserved words and bits, and tables within the region. -/
def ctlDirBad (bs : List Byte) : Bool :=
  let size (k : Nat) : Nat := [64, 256, 32, 64, 16].getD k 0
  decide (bs.length < 64) || [5, 6, 7].any (fun k => wordOf bs k != 0) ||
  (List.range 5).any (fun k =>
    let w := wordOf bs k
    fld w 31 16 != 0 || decide (bs.length < fld w 63 32 + fld w 15 0 * size k) || (fld w 15 0 != 0 && decide (fld w 63 32 < 64)))

/-- A DECLARE section's reserved bytes, digest count and slots (Table 21.8). -/
def declareBad (bs : List Byte) : Bool :=
  let num (o n : Nat) : Nat := leNat ((bs.drop o).take n)
  let k := num 434 2
  num 436 4 != 0 || decide (16 < k) || (List.range 16).any (fun i => decide (k ≤ i) && num (440 + 2 * i) 2 != 0)

/-- Does a section break the conditions of its type (R487). -/
def sectBad (img : List Byte) (all : List Sect) (i : Nat) (s : Sect) : Bool :=
  let bs := sectBytes img s
  let base := ((all.find? (fun x => x.typ == 1 && x.core == s.core)).map Sect.target).getD 0x600000
  s.rsv != 0 || (all.take i).any (fun x => x.typ == s.typ && x.core == s.core) ||
  (match s.typ with
   | 1 => decide (63 < s.core) || s.target + s.len != 0x600000 || ctlDirBad bs
   | 2 => decide (63 < s.core) || decide (base < s.target + s.len)
   | 3 => decide (63 < s.core) || s.target != 0 || s.len != 480 || declareBad bs
   | 4 => s.core != 0xFF || s.target != 0 || s.len % 8 != 0 || decide (32768 < s.len)
   | 5 => s.core != 0xFF || s.target != 0 || decide (s.len < 16) || s.len % 8 != 0 || decide (16 + 8 * 4096 < s.len) ||
      wordOf bs 1 != 0 || fld (wordOf bs 0) 62 22 != 0 || fld (wordOf bs 0) 15 10 != 0
   | _ => true)

/-- DETAIL of a refused image: the first bad section, 0xFFFF for the header; none for one that keeps R486 to R488. -/
def patBad (img : List Byte) : Option Nat :=
  if patHeaderBad img then some 0xFFFF
  else
    let all := sectsOf img
    (List.range all.length).find? (fun i => (all[i]?).any (sectBad img all i))

/-! ## Effects -/

/-- Are the frames that pages hold all within an image's pool (R189). -/
def State.poolHolds (s : State) (img : List Byte) : Bool :=
  s.framesUsed.all (fun f => decide (patPoolFirst img ≤ f) && decide (f < patPoolFirst img + patPoolCount img))

/-- Put an image in place of the pattern. -/
def State.putPattern (s : State) (img : List Byte) : State := { s with pat := ⟨.loaded, img, shake256 32 img⟩ }

def State.patternLoad (s : State) (img : List Byte) : Ans :=
  if s.pat.st = .started then Ans.fail s stNotInState
  else match patBad img with
    | some d => ⟨s, stBadArg, d, []⟩
    | none =>
      if !s.poolHolds img then Ans.fail s stRejected
      else
        let s := (s.putPattern img).tellTwin "PATTERN_LOAD" [] img
        Ans.ok s s.pat.digest

/-- PATTERN_VERIFY with the failure it found. -/
def State.patternVerify (s : State) : Ans × Option VFail :=
  if s.pat.st != .loaded && s.pat.st != .verified then (Ans.fail s stNotInState, none)
  else match s.verify with
    | some f => (⟨s, stRejected, 0, bytes64 [f.word]⟩, some f)
    | none => (Ans.ok { s with pat := { s.pat with st := .verified } } (bytes64 [0]), none)

/-- Every core is loaded and the pattern starts. -/
def State.startPattern (s : State) : State := ({ s with pat := { s.pat with st := .started } }).loadCores

def State.patternStart (s : State) : Ans :=
  if s.pat.st != .verified then Ans.fail s stNotInState
  else if (s.pat.image.drop 40).take 32 ≠ s.rud.digest then Ans.fail s stRejected
  else Ans.ok (s.startPattern.tellTwin "PATTERN_START" [] []) []

/-- The pattern leaves the cores; their gates open at STEP_RUN or for a self-test alone (Table 16.13). -/
def State.stopPattern (s : State) : State :=
  (List.range 64).foldl (fun s c => s.updCore c (fun k => { stopCore k with ctl := none, done := false, idleAt := s.now }))
    { s with pat := { s.pat with st := .verified } }

def State.patternStop (s : State) : Ans :=
  if s.pat.st != .started || s.ep.st != .idle then Ans.fail s stNotInState
  else Ans.ok (s.stopPattern.tellTwin "PATTERN_STOP" [] []) []

/-- A new package is in every core's store; a verified pattern is LOADED again (R145, R429). -/
def State.putRudiments (s : State) (r : Rudiments) : State :=
  { s with rud := r, pat := { s.pat with st := if s.pat.st = .verified then .loaded else s.pat.st } }

def State.rudimentLoad (s : State) (bs : List Byte) : Ans :=
  if s.pat.st = .started then Ans.fail s stNotInState
  else match rudLoad bs s.sec.ownerKey s.sec.unsignedOk with
    | .ok r => Ans.ok ((s.putRudiments r).tellTwin "RUDIMENT_LOAD" [] bs) []
    | .error e =>
      let isSigned := (rudPkgOf bs).any (fun p => !p.sg.isEmpty)
      Ans.fail (if e = stAuthFail && isSigned then s.logCp 0xB2 0x34 0 else s) e

/-! ## The commands -/

def execPatternLoad (n : Fin 64) (s : State) : Host.Outcome State Fault Refusal :=
  .next (s.serve n.val 0x30 [] (fun s bs =>
    if patHeaderRsv bs then s.failD n.val stBadArg 0xFFFF else (s.patternLoad bs).reply n.val))

def execPatternVerify (n : Fin 64) (s : State) : Host.Outcome State Fault Refusal :=
  .next (s.serve n.val 0x31 [] (fun s bs =>
    if s.pat.st != .loaded && s.pat.st != .verified then s.fail n.val stNotInState
    else s.sized n.val bs 0 (fun s => s.patternVerify.1.reply n.val)))

def execPatternStart (n : Fin 64) (s : State) : Host.Outcome State Fault Refusal :=
  .next (s.serve n.val 0x32 [] (fun s bs =>
    if s.pat.st != .verified then s.fail n.val stNotInState else s.sized n.val bs 0 (fun s => s.patternStart.reply n.val)))

def execPatternStop (n : Fin 64) (s : State) : Host.Outcome State Fault Refusal :=
  .next (s.serve n.val 0x33 [] (fun s bs =>
    if s.pat.st != .started || s.ep.st != .idle then s.fail n.val stNotInState
    else s.sized n.val bs 0 (fun s => s.patternStop.reply n.val)))

def execRudimentLoad (n : Fin 64) (s : State) : Host.Outcome State Fault Refusal :=
  .next (s.serve n.val 0x34 [] (fun s bs => if rudRsv bs then s.fail n.val stBadArg else (s.rudimentLoad bs).reply n.val))

end Sys2Proof.Machine
end

