-- ==== Sys2Proof/Machine/SeqCmds.lean ====
section
/-!
DEFINITION. The sequence commands (R175 to R193, R201, R434): opening with a shared prefix, appending, closing and
reading lengths. What waits for a promotion is a job; PROMOTION_COMPLETE and PROMOTION_ERROR go on with it.
-/
namespace Sys2Proof.Machine

/-- Complete mailbox n: a GEN 1 command gets the result's fields as 32-bit words (R443, log 18). -/
def State.answer (s : State) (n code detail : Nat) (g2 : List Byte) (g1 : List Nat) : State :=
  s.reply n code detail (if (s.box n).gen.toNat = 1 then g1.flatMap (natLe 4) else g2) 0

/-- Sequences and counts of STEP_RUN's and STEP_COMMIT's argument words (Table 18.7). -/
def stepSeqs (ws : List Nat) : List (Nat × Nat) :=
  ((ws.drop 2).take (fld (ws.getD 1 0) 7 0)).map (fun w => (fld w 15 0, fld w 63 32))

/-! ## Region headers -/

/-- Header words SQ0 to SQ7 from SQ0 to SQ2 (R177, R180, R182), generation 1. -/
def headerOf (q0 q1 q2 : Nat) : List Nat :=
  let g := grainOf (fld q0 11 10)
  let d := headDim (fld q0 14 12)
  let kb := blockBytes (fmtOf (fld q0 4 0)) g d
  let vb := blockBytes (fmtOf (fld q0 9 5)) g d
  let size := roundUp ((fld q0 23 16 + 1) * (fld q2 36 32 + 1) * fld q2 31 0 * (kb + vb)) pageBytes
  [q0, q1, q2, place vb 32 + kb, size, 1, 0, 0]

/-- Grain held in local slot j of member SIDX (R181). -/
def Geom.grainAt (m : Geom) (j : Nat) : Nat := j / m.run * (m.run * m.sw) + m.sidx * m.run + j % m.run

/-- The checks of R179 on a header. -/
def headerOk (h : List Nat) : Bool :=
  let q0 := h.getD 0 0
  let q1 := h.getD 1 0
  let m := geomOf h
  let maxlen := fld q0 63 32
  let fmt (f : Nat) : Bool := decide (1 ≤ f) && decide (f ≤ 14)
  fmt (fld q0 4 0) && fmt (fld q0 9 5) && decide (fld q0 14 12 ≤ 4) && decide (1 ≤ maxlen) && decide (maxlen ≤ 2 ^ 24) &&
  decide (1 ≤ m.run) && decide (1 ≤ m.sw) && decide (m.sw ≤ 20480) && decide (m.sidx < m.sw) &&
  decide (1 ≤ m.maxg) && decide (m.maxg ≤ 32768) && fld q1 63 48 == 0 && decide (h.getD 4 0 ≤ 2 ^ 40) &&
  (List.range (ceilDiv maxlen m.g)).all (fun k => m.owner k != m.sidx || decide (m.local_ k < m.maxg))

/-- Fields of a header in the order of Table 7.1. -/
def headerFields (h : List Nat) : List Nat :=
  let q (i : Nat) : Nat := h.getD i 0
  [fld (q 0) 63 32, fld (q 0) 23 16, fld (q 0) 15 15, fld (q 0) 14 12, fld (q 0) 11 10, fld (q 0) 9 5, fld (q 0) 4 0,
   fld (q 1) 47 32, fld (q 1) 31 16, fld (q 1) 15 0, fld (q 2) 36 32, fld (q 2) 31 0, fld (q 3) 63 32, fld (q 3) 31 0,
   fld (q 4) 31 0, fld (q 5) 31 0]

def hdrGen (h : List Nat) : Nat := fld (h.getD 5 0) 31 0
def State.setHdr (s : State) (seq : Nat) (h : List Nat) : State :=
  { s with kv := { s.kv with hdrs := Table.set [] s.kv.hdrs seq h } }
def State.setLens (s : State) (seq : Nat) (l : Lens) : State :=
  { s with kv := { s.kv with lens := Table.set Lens.init s.kv.lens seq l } }
/-- GEN + 1 (R178). -/
def State.bumpGen (s : State) (seq : Nat) : State :=
  let h := s.hdr seq
  s.setHdr seq (h.set 5 ((hdrGen h + 1) % 2 ^ 32))

/-! ## Records of a region -/

/-- Mapped pages of a region with their records. -/
def State.regionPages (s : State) (seq : Nat) : List (Nat × Nat) :=
  s.kv.map.filterMap (fun e => if e.1 / 2 ^ 22 = seq && e.2 ≠ 0 then some (e.1 % 2 ^ 22, e.2 - 1) else none)

def State.isShared (s : State) (r : Nat) : Bool := match s.page r with | some p => decide (1 < p.share) | none => false

/-- GEN + 1 of each open sequence other than `skip` whose set of shared pages differs from that of `old` (R178). -/
def State.noteShares (s old : State) (skip : Nat) : State :=
  let shared (s : State) (q : Nat) : List Nat := ((s.regionPages q).filter (fun e => s.isShared e.2)).map Prod.fst
  s.openSeqs.foldl (fun t q => if q ≠ skip && shared s q ≠ shared old q then t.bumpGen q else t) s

/-- A record is freed, and its frame with it (R197, R201). -/
def State.freeRecord (s : State) (r : Nat) (p : Page) : State :=
  (if p.st = 0 then s else s.drain r p).setRec r none

/-- Take one map entry's share from its record; at 0 the record and its frame are freed, a copy in progress on it
completing first, and a forced eviction pending on it ends (R201). -/
def State.dropShare (s : State) (r : Nat) : State :=
  match s.page r with
  | none => s
  | some p =>
    let s := Page.upd s r (fun p => { p with share := p.share - 1 })
    if 1 < p.share then s
    else
      let s := if p.evpend then (s.settleUnits .tierEvict r stNotInState (some true)).finishTiers else s
      if p.st = 1 || p.st = 3 then s else s.freeRecord r p

/-- Unmap every page of a region. -/
def State.unmapRegion (s : State) (seq : Nat) : State :=
  (s.regionPages seq).foldl (fun s e => (s.setMap seq e.1 none).dropShare e.2) s

/-! ## SEQ_OPEN -/

/-- What a page of the new region becomes under a shared prefix of P positions (R192). -/
inductive Share where
  | copy | share | unmapped
  deriving DecidableEq, Repr

def Geom.sharing (m : Geom) (p page : Nat) : Share :=
  let blk := m.kblk + m.vblk
  let total := m.layers * m.heads * m.maxg
  let i0 := page * pageBytes / blk
  let i1 := ((page + 1) * pageBytes - 1) / blk
  let slots := ((List.range (i1 + 1 - i0)).map (i0 + ·)).filter (fun i => decide (i < total))
  let grains := slots.map (fun i => m.grainAt (i % m.maxg))
  if p % m.g ≠ 0 && grains.contains (p / m.g) then .copy
  else if grains.all (fun k => decide ((k + 1) * m.g ≤ p)) then .share
  else .unmapped

/-- An open request: the fixed words A0 to A3 and the home list, as argument words. -/
def openSeqOf (ws : List Nat) : Nat := fld (ws.getD 0 0) 15 0

/-- Status of an open request that its arguments or the device's state refuse (R176, R179, R189, R192). -/
def State.openRefuse (s : State) (ws : List Nat) : Option Nat :=
  let a0 := ws.getD 0 0
  let seq := fld a0 15 0
  let src := fld a0 31 20
  let h := headerOf (ws.getD 1 0) (ws.getD 2 0) (ws.getD 3 0)
  let p := fld a0 63 32
  let homes := ws.drop 4
  firstFail [
    (s.pat.st == .none || (s.lens seq).isOpen || (bitAt a0 16 && !(s.lens src).isOpen), stNotInState),
    (decide (4095 < seq), stBadArg),
    (!headerOk h, stBadArg),
    (if bitAt a0 17 then homes.length != h.getD 4 0 / pageBytes || homes.any (fun a => a % 4096 != 0) else !homes.isEmpty, stBadArg),
    (!bitAt a0 16 && p != 0, stBadArg),
    (bitAt a0 16 && (decide ((s.lens src).committed < p) || (s.hdr src).take 5 != h.take 5), stBadArg)]

/-- Source records in HOST or on their way from it, of which the new region needs private copies. -/
def State.openWaits (s : State) (ws : List Nat) : List Nat :=
  let a0 := ws.getD 0 0
  if !bitAt a0 16 then []
  else
    let src := fld a0 31 20
    let m := geomOf (s.hdr src)
    (s.regionPages src).filterMap (fun e =>
      match m.sharing (fld a0 63 32) e.1, s.page e.2 with
      | .copy, some p => if p.st ≤ 1 then some e.2 else none
      | _, _ => none)

/-- One page of the new region (R192): none when it cannot be completed. -/
def State.openPage (s : State) (m : Geom) (p seq page src : Nat) : Option State :=
  match m.sharing p page with
  | .unmapped => some s
  | .share => match s.page src with
    | none => some s
    | some x => if 4096 ≤ x.share then none
      else some ((Page.upd s src (fun x => { x with share := x.share + 1 })).setMap seq page (some src))
  | .copy => match s.page src with
    | none => some s
    | some x => match s.newPage seq page with
      | (_, none) => none
      | (s, some r) => some (match s.page r with | some y => s.copyFrame x.frame y.frame | none => s)

/-- Keep the source pages that a prefix copies from the eviction policy, which a frame for a copy may run. -/
def State.guardSources (s : State) (m : Geom) (src p : Nat) (d : Nat → Nat) : State :=
  ((s.regionPages src).filter (fun e => m.sharing p e.1 == .copy)).foldl
    (fun s e => Page.upd s e.2 (fun x => { x with pin := d x.pin })) s

/-- Share and copy the prefix; what was done is undone when a page cannot be completed. -/
def State.sharePrefix (s : State) (seq src p : Nat) : State × Bool :=
  let m := geomOf (s.hdr src)
  let (s, ok) := (s.regionPages src).foldl (fun a e =>
    if !a.2 then a
    else match a.1.openPage m p seq e.1 e.2 with
      | some s => (s, true)
      | none => (a.1.unmapRegion seq, false)) (s.guardSources m src p (· + 1), true)
  (s.guardSources m src p (· - 1), ok)

/-- Open the sequence: header, homes, lengths, prefix (R177, R179, R189, R192). -/
def State.openNow (s : State) (n : Nat) (ws : List Nat) : State :=
  let a0 := ws.getD 0 0
  let seq := openSeqOf ws
  let src := fld a0 31 20
  let p := if bitAt a0 16 then fld a0 63 32 else 0
  let h := headerOf (ws.getD 1 0) (ws.getD 2 0) (ws.getD 3 0)
  let old := s
  let s := s.setHdr seq h
  let s := { s with kv := { s.kv with homes := Table.set [] s.kv.homes seq (ws.drop 4) } }
  let (s, ok) := if bitAt a0 16 then s.sharePrefix seq src p else (s, true)
  if !ok then
    let s := s.setHdr seq (old.hdr seq)
    ({ s with kv := { s.kv with homes := Table.set [] s.kv.homes seq (Table.get [] old.kv.homes seq) } }).fail n stNoResource
  else
    let s := (s.setLens seq ⟨p, 0, true, fld (ws.getD 1 0) 63 32⟩).noteShares old seq
    let s := s.tellSeq seq
    s.answer n stOk 0 (bytes64 h) (headerFields h)

/-- Put a command of mailbox n on wait for the promotion of pages; its units are the pins it took. -/
def State.await (s : State) (n : Nat) (kind : JobKind) (took : List (Nat × Option Nat)) (pages args : List Nat) : State :=
  { s with mb := { s.mb with jobs := (s.mb.jobs.filter (fun j => j.n != n)) ++ [⟨n, kind, took, none, pages, args⟩] } }

/-- Begin the promotion of every page of a list that is in HOST; false when one gets no frame. -/
def State.promoteAll (s : State) (rs : List Nat) : State × Bool :=
  rs.foldl (fun a r =>
    if !a.2 then a
    else if (a.1.page r).map Page.st = some 0 then a.1.promote r else a) (s, true)

/-- Go on with an open request: checks, promotions of the source pages to copy, then the opening (R192), which waits while
a step runs (R186, log 95). -/
def State.openGo (s : State) (n : Nat) (ws : List Nat) : State :=
  match s.openRefuse ws with
  | some c => s.fail n c
  | none =>
    let rs := s.openWaits ws
    if rs.isEmpty then (if s.running then s.await n .seqOpen [] [] ws else s.openNow n ws)
    else match s.promoteAll rs with
      | (s, false) => s.fail n stNoResource
      | (s, true) => s.await n .seqOpen [] rs ws

/-- No earlier sequence command of this sequence is in progress (R194). -/
def State.seqFree_ (s : State) (seq n : Nat) : Bool :=
  s.mb.jobs.all (fun j => j.n == n || !((j.kind == .append && j.args.getD 0 0 == seq) || (j.kind == .seqOpen && openSeqOf j.args == seq)))

/-- Masks of A0 to A3 (Tables 18.7 and 7.1). -/
def openMasks : List Nat :=
  [bits 63 32 + bits 31 20 + bits 17 0, bits 63 32 + bits 23 0, bits 47 0, bits 36 0]

/-! ## SEQ_APPEND -/

/-- Does a step name the sequence: an active epoch's, or that of a STEP_RUN that waits for its pages (R187, R201). -/
def State.stepNames (s : State) (seq : Nat) : Bool :=
  (s.ep.st != .idle && s.ep.seqs.any (fun e => e.1 == seq)) ||
  s.mb.jobs.any (fun j => j.kind == .stepWait && (stepSeqs j.args).any (fun e => e.1 == seq))

/-- Owned positions of a range, ascending. -/
def Geom.owned (m : Geom) (p0 n : Nat) : List Nat := ((List.range n).map (p0 + ·)).filter (fun p => m.owner (p / m.g) == m.sidx)

/-- Data bytes of the owned positions (R434). -/
def Geom.appendBytes (m : Geom) (p0 n : Nat) : Nat :=
  let row (f : Nat) : Nat := rowBytes (fmtOf f) m.d + rowScale (fmtOf f) m.d
  m.layers * m.heads * (m.owned p0 n).length * (row m.kf + row m.vf)

/-- Region offsets of the data's bytes in the order of R434. -/
def Geom.appendOffs (m : Geom) (p0 n : Nat) : List Nat :=
  let ps := m.owned p0 n
  (List.range m.layers).flatMap (fun l => (List.range m.heads).flatMap (fun h =>
    [true, false].flatMap (fun key => ps.flatMap (fun p =>
      let rs := m.rowRanges l h (m.local_ (p / m.g)) (p % m.g)
      let nk := if rowScale (fmtOf m.kf) m.d = 0 then 1 else 2
      (if key then rs.take nk else rs.drop nk).flatMap (fun r => (List.range r.2).map (r.1 + ·))))))

/-- Pages that a command pins before it writes (R187, R191): the records it pinned, with the region page of each that it
made; the code is 0 while all goes well. -/
structure PagePrep where
  s : State
  took : List (Nat × Option Nat)
  code : Nat
  deriving DecidableEq, Repr

/-- Pin one page, made if it is unmapped (R190) and promoted if it is in HOST. -/
def PagePrep.add (a : PagePrep) (seq page : Nat) : PagePrep :=
  if a.code ≠ 0 then a
  else match a.s.pageOf seq page with
    | none => match a.s.newPage seq page with
      | (s, none) => { a with s := s, code := stNoResource }
      | (s, some r) => { a with s := s.pinPage r, took := a.took ++ [(r, some (mapKey seq page))] }
    | some r => match a.s.page r with
      | none => a
      | some p =>
        if 65535 ≤ p.pin then { a with code := stNoResource }
        else if p.st = 0 then match a.s.promote r with
          | (s, false) => { a with s := s, code := stNoResource }
          | (s, true) => { a with s := s.pinPage r, took := a.took ++ [(r, none)] }
        else { a with s := a.s.pinPage r, took := a.took ++ [(r, none)] }

/-- Pin the pages of `cnt` positions beyond COMMITTED. -/
def PagePrep.range (a : PagePrep) (seq cnt : Nat) : PagePrep :=
  let p0 := (a.s.lens seq).committed
  ((geomOf (a.s.hdr seq)).pagesOf p0 (p0 + cnt)).foldl (fun a p => a.add seq p) a

/-- Pinned records that a promotion still brings. -/
def PagePrep.waits (a : PagePrep) : List Nat := (a.took.map Prod.fst).filter (fun r => (a.s.page r).map Page.st = some 1)

/-- Arguments of an append job: sequence, N, address, twin's outcome. -/
def State.endAppend (s : State) (n seq code : Nat) (twinOk : Bool) : State :=
  let mirrors := s.twin.mirroring
  let u1 := if !mirrors then stOk else if code ≠ 0 then code else if twinOk then stOk else stRejected
  let s := if mirrors && code = 0 && !twinOk then s.stale 2 s.validSide else s
  let l := s.lens seq
  let gen := hdrGen (s.hdr seq)
  let sts := [code, u1]
  if (s.box n).gen.toNat = 1 then
    s.reply n (splitStatus sts) (if 16777215 < l.committed then 4 else 0)
      (natLe 4 (min l.committed 16777215) ++ natLe 4 gen) (okMask sts)
  else s.replyUnits n sts (bytes64 [place gen 32 + l.committed])

/-- Every page is in DEVICE: copy, release the pins, add N (R187). -/
def State.appendNow (s : State) (n seq cnt addr : Nat) (twinOk : Bool) (took : List (Nat × Option Nat)) : State :=
  let m := geomOf (s.hdr seq)
  let l := s.lens seq
  let pages := m.pagesOf l.committed (l.committed + cnt)
  let recs := pages.filterMap (s.pageOf seq)
  let size := m.appendBytes l.committed cnt
  match s.hostRead addr size with
  | none => (s.undoPins took).endAppend n seq stRejected twinOk
  | some bs =>
    let at_ (o : Nat) : Nat := match s.locate (seq * 2 ^ 40 + o) false with | .dram d _ => d | _ => dramBytes
    let cells : List Cell := ((m.appendOffs l.committed cnt).zip bs).mapIdx (fun i e =>
      (at_ e.1, e.2, NatSet.has s.host.poison ((addr + i) / 64)))
    let s := s.dramWrite (cells.filter (fun c => decide (c.1 < dramBytes)))
    let s := recs.foldl (fun s r => Page.upd s r (fun p => { p with dirty := true })) s
    let s := s.unpinAll recs
    let s := (s.setLens seq { l with committed := l.committed + cnt }).bumpGen seq
    (s.tellSeq seq).endAppend n seq 0 twinOk

/-- Take an append whose arguments hold: pins first, then the copy when no promotion is awaited and no step runs (R186,
log 95). -/
def State.appendGo (s : State) (n seq cnt addr bytes : Nat) (twinOk : Bool) : State :=
  let l := s.lens seq
  if 4095 < seq then s.fail n stBadArg
  else if !l.isOpen || l.prov ≠ 0 || s.stepNames seq then s.fail n stNotInState
  else if cnt = 0 || l.maxlen < l.committed + cnt || bytes ≠ (geomOf (s.hdr seq)).appendBytes l.committed cnt then
    s.fail n stBadArg
  else
    let a := PagePrep.range ⟨s, [], 0⟩ seq cnt
    if a.code ≠ 0 then (a.s.undoPins a.took).endAppend n seq a.code twinOk
    else if a.waits.isEmpty && !s.running then a.s.appendNow n seq cnt addr twinOk a.took
    else a.s.await n .append a.took a.waits [seq, cnt, addr, b2n twinOk]

/-! ## What goes on after a wait -/

/-- A waiting SEQ_OPEN or SEQ_APPEND whose last page came goes on between steps (R186, R187, R192). -/
def State.seqJobGo (s : State) (j : Job) : State :=
  if !j.awaits.isEmpty || s.running then s
  else match j.kind with
    | .seqOpen => s.openGo j.n j.args
    | .append => s.appendNow j.n (j.args.getD 0 0) (j.args.getD 1 0) (j.args.getD 2 0) (j.args.getD 3 0 == 1) j.units
    | _ => s

/-- A waiting SEQ_OPEN or SEQ_APPEND one of whose pages failed (R187, R192). -/
def State.seqJobFail (s : State) (j : Job) : State :=
  match j.kind with
  | .seqOpen => s.fail j.n stRejected
  | .append => (s.undoPins j.units).endAppend j.n (j.args.getD 0 0) stRejected (j.args.getD 3 0 == 1)
  | _ => s

/-- A SEQ_OPEN or SEQ_APPEND of mailbox n that has its pages, and that waited for the end of a step. -/
def State.seqReady (s : State) (n : Nat) (kind : JobKind) : Option Job :=
  s.mb.jobs.find? (fun j => j.n == n && j.kind == kind && j.awaits.isEmpty)

/-- Go on with a sequence command that waited for the end of a step, or take it. -/
def State.seqTake (s : State) (n : Nat) (kind : JobKind) (take : State → State) : State :=
  match s.seqReady n kind with
  | some j => s.seqJobGo j
  | none => take s

def execSeqOpen (n : Fin 64) (s : State) : Host.Outcome State Fault Refusal :=
  .next (s.seqTake n.val .seqOpen (fun s => s.serve n.val 0x40 openMasks (fun s bs =>
    if !s.seqFree_ (fld (argW bs 0) 15 0) n.val then s
    else if bs.length < 32 || bs.length % 8 ≠ 0 then
      (if s.pat.st = .none then s.fail n.val stNotInState else s.fail n.val stBadArg)
    else s.openGo n.val (words64 bs))))

def execSeqAppend (n : Fin 64) (twinOk : Bool) (s : State) : Host.Outcome State Fault Refusal :=
  .next (s.seqTake n.val .append (fun s => s.serve n.val 0x41 [bits 63 32 + bits 15 0, allBits, allBits] (fun s bs =>
    let seq := fld (argW bs 0) 15 0
    if !s.seqFree_ seq n.val then s
    else if bs.length ≠ 24 then (if 4095 < seq || (s.lens seq).isOpen then s.fail n.val stBadArg else s.fail n.val stNotInState)
    else s.appendGo n.val seq (fld (argW bs 0) 63 32) (argW bs 1) (argW bs 2) twinOk)))

/-! ## SEQ_CLOSE and SEQ_LENGTHS -/

/-- Why SEQ_CLOSE is refused (R176, R201). -/
def State.closeRefuse (s : State) (seq : Nat) : Option Nat :=
  firstFail [
    (decide (4095 < seq), stBadArg),
    (!(s.lens seq).isOpen || s.stepNames seq ||
      s.mb.jobs.any (fun j => j.kind == .append && j.args.getD 0 0 == seq), stNotInState)]

/-- Close a sequence (R201): its outcome. -/
def State.seqClose (s : State) (seq : Nat) : Ans :=
  match s.closeRefuse seq with
  | some c => Ans.fail s c
  | none =>
    let old := s
    let s := s.unmapRegion seq
    let s := { s with kv := { s.kv with homes := Table.set [] s.kv.homes seq [] } }
    let s := (s.setLens seq { s.lens seq with isOpen := false }).noteShares old seq
    Ans.ok (s.tellSeq seq) []

/-- Must a close that is not refused wait for the end of a step (R186, log 95). -/
def State.closeWaits (s : State) (seq : Nat) : Bool := s.running && (s.closeRefuse seq).isNone

def execSeqClose (n : Fin 64) (s : State) : Host.Outcome State Fault Refusal :=
  .next (s.serve n.val 0x42 [bits 15 0] (fun s bs =>
    let seq := fld (argW bs 0) 15 0
    if bs.length ≠ 8 && (4095 < seq || (s.lens seq).isOpen) then s.fail n.val stBadArg
    else if s.closeWaits seq then s
    else (s.seqClose seq).reply n.val))

/-- A Table 7.2 entry. -/
def Lens.words (l : Lens) : List Nat := [place l.prov 32 + l.committed, place (b2n l.isOpen) 32 + l.maxlen]

def execSeqLengths (n : Fin 64) (s : State) : Host.Outcome State Fault Refusal :=
  .next (s.serve n.val 0x43 [bits 31 0] (fun s bs => s.sized n.val bs 8 (fun s =>
    let first := fld (argW bs 0) 15 0
    let cnt := fld (argW bs 0) 31 16
    if cnt = 0 || 254 < cnt || 4096 < first + cnt then s.fail n.val stBadArg
    else s.okWords n.val ((List.range cnt).flatMap (fun i => (s.lens (first + i)).words)))))

end Sys2Proof.Machine
end

