-- ==== Sys2Proof/Machine/StepCmds.lean ====
section
/-!
DEFINITION. STEP_RUN, STEP_COMMIT and STEP_ABORT (R336 to R341, R435, R436): the checks of a step, its start, and the
decision of a commit at the lead.
-/
namespace Sys2Proof.Machine

/-! ## STEP_RUN: what refuses it -/

/-- Bound writes of a STEP_RUN: value, every core, core, register. -/
def stepBounds (ws : List Nat) : List (Nat × Bool × Nat × Nat) :=
  (ws.drop (2 + fld (ws.getD 1 0) 7 0)).map (fun w => (fld w 63 32, bitAt w 14, fld w 13 8, fld w 4 0))

/-- Reserved bits of the words after A1 (Table 18.7). -/
def stepReserved (ws : List Nat) : Bool :=
  ((ws.drop 2).take (fld (ws.getD 1 0) 7 0)).any (fun w => fld w 31 16 != 0) ||
  (ws.drop (2 + fld (ws.getD 1 0) 7 0)).any (fun w => fld w 31 15 != 0 || fld w 7 5 != 0)

/-- LENGTH against NSEQ and NBND, and their ranges. -/
def stepForm (ws : List Nat) (bytes : Nat) : Bool :=
  let n := fld (ws.getD 1 0) 7 0
  let b := fld (ws.getD 1 0) 15 8
  decide (1 ≤ n) && decide (b ≤ 64) && bytes == 16 + 8 * (n + b)

def distinct (l : List Nat) : Bool := match l with
  | [] => true
  | x :: t => !t.contains x && distinct t

/-- An attention op of the pattern whose region's formats Table 6.11 does not accept (R172). -/
def State.formatRefused (s : State) : Bool :=
  (patCores s.pat.image).any (fun c =>
    let k := patCore s.pat.image c
    (liveOps k).any (fun w =>
      let seq := fld (opImm w 2) 15 0
      let q0 := (s.hdr seq).getD 0 0
      opEngine w == 1 && opAttn w && decide (seq < 4096) && (s.lens seq).isOpen &&
      (!(widenFrom (opFmt w 1)).contains (fmtOf (fld q0 4 0)) || !(widenFrom (opFmt w 3)).contains (fmtOf (fld q0 9 5)))))

/-- Ring size, own place and origin of each compute phase (R303, R304); a device outside a carillon is alone. -/
def State.ringWords (s : State) : List Nat :=
  match s.memberRec with
  | none => [1, 0, 0]
  | some r =>
    let (_, _, q) := r.axes r.self
    let p := r.placeOf q
    [r.sw, p] ++ (List.range r.sw).map (fun k => r.ring.getD ((p + r.sw - k) % r.sw) 0)

/-- A ring area too small for the words of R304. -/
def State.ringSmall (s : State) : Bool :=
  (patCores s.pat.image).any (fun c =>
    let z := (declRing s.pat.image c).2
    z != 0 && decide (z < 4 * s.ringWords.length))

/-- An attachment that the plan needs is missing, or the spill area overlaps the KV pool (R319). -/
def State.planRefused (s : State) : Bool :=
  match s.memberRec with
  | none => false
  | some r =>
    let as := attachesOf s.pat.image
    let has (i : Nat) (out : Bool) : Bool := as.any (fun a => a.pop == i && a.out == out)
    let lo := patPoolFirst s.pat.image * pageBytes
    let hi := lo + patPoolCount s.pat.image * pageBytes
    let sb := planSpillBase r.plan
    (List.range (planNops r.plan)).any (fun i =>
      let n := r.pnode i
      ((n.o.kind != 4 || n.root) && !has i false) || (n.gets && !has i true)) ||
    (planSpillSize r.plan != 0 && patPoolCount s.pat.image != 0 && decide (sb < hi) && decide (lo < sb + planSpillSize r.plan))

/-- An earlier SEQ_APPEND or SEQ_CLOSE of one of the sequences has not completed (R435). -/
def State.seqsBusy (s : State) (own : Nat) (seqs : List Nat) : Bool :=
  (s.before own).any (fun m => [0x41, 0x42].contains (s.box m).g2op && (s.seqsNamed m).any seqs.contains)

/-- The status with which STEP_RUN is refused, in the order of R415: state, arguments, then the rest. `own` is the
mailbox of the command itself. -/
def State.stepRefuse (s : State) (own : Nat) (ws : List Nat) : Option Nat :=
  let es := stepSeqs ws
  let seqs := es.map Prod.fst
  firstFail [
    (s.pat.st != .started || s.ep.st != .idle || !s.ep.quiet || s.ep.selfCheck, stNotInState),
    (s.twin.st != 0 && s.twin.mode == 0 && s.twin.role == 2, stNotInState),
    (s.mb.jobs.any (fun j => j.n != own && (j.kind == .stepWait ||
      (j.kind == .append && seqs.contains (j.args.getD 0 0)))) || s.seqsBusy own seqs, stNotInState),
    (ws.getD 0 0 != s.ep.next, stBadArg),
    (!distinct seqs || seqs.any (fun q => decide (4095 < q) || !(s.lens q).isOpen), stBadArg),
    (es.any (fun e => e.2 == 0 || decide ((s.lens e.1).maxlen < (s.lens e.1).committed + e.2)), stBadArg),
    (patDecode s.pat.image && es.any (fun e => decide (16 < e.2)), stBadArg),
    (s.ep.persist || s.formatRefused, stRejected),
    ((!s.car.member && !(bindingsOf s.pat.image).isEmpty) || s.ringSmall || s.planRefused, stRejected)]

/-! ## STEP_RUN: the start -/

/-- A participating core at the start of a step (R58, R64, R397): default bounds, then the step's; the lengths of the
sequence length table go to no register of themselves (log 97). A domain gated for more than 1 ms stays gated until its
wake-up phase (R244). -/
def startCore (img : List Byte) (now c : Nat) (ring : List Nat) (bs : List (Nat × Bool × Nat × Nat)) (k : Core) : Core :=
  let k := loadBounds img c k
  let bnd := (bs.filter (fun b => b.2.1 || b.2.2.1 == c)).foldl (fun t b => Table.set 0 t b.2.2.2 b.1) k.bnd
  let (ra, rz) := declRing img c
  let k := if rz = 0 then k else loadBytes k ra (ring.flatMap (natLe 4))
  { k with
    bnd := bnd, flags := 0, csq := .running, pc := 0, lastOp := 0, queues := [], engs := [], fault := none, done := false,
    written := [], strokes := [], headAt := [], remote := [],
    gated := k.gated && decide (1000000 < now - k.gatedAt) }

/-- Word SQ0 of each open region that an attention op of the pattern names (R171). -/
def State.stepFormats (s : State) : Table Nat :=
  (patCores s.pat.image).foldl (fun t c =>
    let k := patCore s.pat.image c
    (liveOps k).foldl (fun t w =>
      let seq := fld (opImm w 2) 15 0
      if opEngine w == 1 && opAttn w && (s.lens seq).isOpen then Table.put t seq ((s.hdr seq).getD 0 0) else t) t) []

/-- Halt policy of the step (R226): that of the carillon, or of a carillon of one member. -/
def State.haltStep (s : State) : Bool :=
  decide ((if s.car.member then s.car.threshold else s.field 0x0030) ≤ s.memberCount)

/-- The step starts (Table 14.2): the counters of every core are loaded (R53, R209), and each port's retries count anew (R347). -/
def State.startStep (s : State) (ws : List Nat) (pins : List Nat) : State :=
  let es := stepSeqs ws
  let s := es.foldl (fun s e => (s.setLens e.1 { s.lens e.1 with prov := e.2 }).tellSeq e.1) s
  let ring := s.ringWords
  let s := (List.range 64).foldl (fun s c => s.updCore c (loadCounters s.pat.image c)) s
  let s := s.participants.foldl (fun s c => s.updCore c (startCore s.pat.image s.now c ring (stepBounds ws))) s
  let s := allPorts.foldl (fun s p => s.updPort p (fun x => { x with epochRetries := 0 })) s
  { s with
    fab := { s.fab with gong := [], ctrs := [] }, rt := { State.reset.rt with injected := s.rt.injected, fixed := s.rt.fixed }, lead := Lead.init, car := { s.car with pauses := [] },
    ep := { s.ep with
      st := .running, poison := false, seqs := es, pins := pins, prep := none, halt := s.haltStep, quiet := true, knell := none,
      extra := 0, orig := 0, absorbed := 0, startAt := s.now, voteDue := none, ackDue := false, abortDue := none,
      ranMax := max s.ep.ranMax (s.ep.next + 1), stepPolicy := [(0x0032, s.policy 0x0032)], peerDigest := none, quietSent := none,
      formats := s.stepFormats } }

/-- Make the step of mailbox n the running one; the command completes at DONE. -/
def State.beginStep (s : State) (n : Nat) (ws : List Nat) (pins : List Nat) : State :=
  (s.startStep ws pins).await n .step [] [] ws

/-- Take the step's pins and start it, or wait for the promotions (R190, R191) and for the bursts that the CP rewrites before the
next step starts (R230). -/
def State.stepGo (s : State) (n : Nat) (ws : List Nat) : State :=
  match s.stepRefuse n ws with
  | some c => s.fail n c
  | none =>
    let a := (stepSeqs ws).foldl (fun (a : PagePrep) e => a.range e.1 e.2) ⟨s, [], 0⟩
    if a.code ≠ 0 then (a.s.undoPins a.took).fail n a.code
    else if a.waits.isEmpty && a.s.dram.rewrite.isEmpty then a.s.beginStep n ws (a.took.map Prod.fst)
    else a.s.await n .stepWait a.took a.waits ws

/-- What a STEP_RUN waited for came: it is checked again and starts (R191, R230). -/
def State.stepJobGo (s : State) (j : Job) : State :=
  if !j.awaits.isEmpty || !s.dram.rewrite.isEmpty then s
  else match s.stepRefuse j.n j.args with
    | some c => (s.undoPins j.units).fail j.n c
    | none => s.beginStep j.n j.args (j.units.map Prod.fst)

/-- A burst was rewritten: a STEP_RUN that waited for the last of them starts (R230). -/
def State.stepsGo (s : State) : State := (s.mb.jobs.filter (fun j => j.kind == .stepWait)).foldl State.stepJobGo s

def State.stepRun (s : State) (n : Nat) (ws : List Nat) : State := s.stepGo n ws

def execStepRun (n : Fin 64) (t : Nat) (s : State) : Host.Outcome State Fault Refusal :=
  .next ((s.at t).serve n.val 0x50 [allBits, bits 15 0] (fun s bs =>
    let ws := words64 bs
    if stepReserved ws then s.fail n.val stBadArg
    else if !stepForm ws bs.length then
      (if s.pat.st != .started || s.ep.st != .idle || !s.ep.quiet then s.fail n.val stNotInState else s.fail n.val stBadArg)
    else s.stepRun n.val ws))

/-! ## The decision at the lead -/

/-- The commit limit in ns, as the epoch's start found it (R340, R441). -/
def State.commitLimit (s : State) : Nat :=
  (match Table.find s.ep.stepPolicy 0x0032 with | some v => v | none => s.policy 0x0032) * 1000000

/-- The commit job of the lead, if one is in progress. -/
def State.commitJob (s : State) : Option Job := s.mb.jobs.find? (fun j => j.kind == .commit)

/-- Complete STEP_COMMIT: every member committed, or none (R339, R350). -/
def State.endCommit (s : State) (code detail : Nat) : State :=
  match s.commitJob with
  | none => s
  | some j =>
    let sts := List.replicate s.memberCount code
    s.reply j.n code detail (unitBlock sts) (okMask sts % 2 ^ 32)

/-- Send the decision to every member (R339). -/
def State.sendDecision (s : State) (e : Nat) (commit : Bool) : State :=
  ({ s with lead := { s.lead with decided := some (e, commit) } }).noticeAll "DECISION" [e, b2n commit]

/-! ## STEP_COMMIT -/

/-- The status with which STEP_COMMIT is refused (R338, R436). -/
def State.commitRefuse (s : State) (e : Nat) (cs : List (Nat × Nat)) : Option Nat :=
  firstFail [
    (!s.isLead, stRejected),
    (s.ep.st != .done || e != s.ep.next || s.commitJob.isSome, stNotInState),
    (!distinct (cs.map Prod.fst) || cs.length != s.ep.seqs.length ||
      cs.any (fun c => s.ep.seqs.all (fun q => q.1 != c.1 || decide (q.2 < c.2))), stBadArg)]

/-- PREPARE to every member, itself included (R338). -/
def State.prepareAll (s : State) (n e : Nat) (cs : List (Nat × Nat)) : State :=
  let s : State := { s with lead := { s.lead with counts := cs, votes := [], acks := [], decided := none, commitAt := s.now } }
  let s := s.await n .commit [] [] [e]
  s.noticeAll "PREPARE" (e :: cs.flatMap (fun (c : Nat × Nat) => [c.1, c.2]))

def State.stepCommit (s : State) (n e : Nat) (cs : List (Nat × Nat)) : State :=
  match s.commitRefuse e cs with
  | some c => s.fail n c
  | none => s.prepareAll n e cs

def execStepCommit (n : Fin 64) (t : Nat) (s : State) : Host.Outcome State Fault Refusal :=
  .next ((s.at t).serve n.val 0x51 [allBits, bits 15 0] (fun s bs =>
    let ws := words64 bs
    if stepReserved ws then s.fail n.val stBadArg
    else if !stepForm ws bs.length || fld (ws.getD 1 0) 15 8 ≠ 0 then
      (if !s.isLead then s.fail n.val stRejected
       else if s.ep.st != .done || argW bs 0 != s.ep.next then s.fail n.val stNotInState
       else s.fail n.val stBadArg)
    else s.stepCommit n.val (argW bs 0) (stepSeqs ws)))

/-! ## STEP_ABORT -/

/-- STEP_ABORT raises the knell and completes at quiescence (R341). -/
def State.stepAbort (s : State) (n e : Nat) : State :=
  if s.ep.st != .running && s.ep.st != .done then s.fail n stNotInState
  else if e ≠ s.ep.next then s.fail n stBadArg
  else (s.await n .abort [] [] [e]).raiseKnell 0x0A 0 4 n

def execStepAbort (n : Fin 64) (t : Nat) (s : State) : Host.Outcome State Fault Refusal :=
  .next ((s.at t).serve n.val 0x52 [allBits] (fun s bs =>
    if bs.length ≠ 8 && (s.ep.st == .running || s.ep.st == .done) then s.fail n.val stBadArg
    else s.stepAbort n.val (argW bs 0)))

end Sys2Proof.Machine
end

