-- ==== Sys2Proof/Machine/EpochEvents.lean ====
section
/-!
DEFINITION. The events of an epoch: its end (R337), PREPARE, votes, decisions and acknowledgements (R338 to R340, R358 to
R363), the knell notice (R342, R343), quiescence and resolution (R344 to R346), and the self-check (R362).
-/
namespace Sys2Proof.Machine

/-! ## The epoch digest (R361) -/

/-- Key and value bytes at the provisional positions of a sequence: layer, KV head, position, ascending. -/
def State.provBytes (s : State) (seq cnt : Nat) : List Byte :=
  let m := geomOf (s.hdr seq)
  let p0 := (s.lens seq).committed
  (List.range m.layers).flatMap (fun l => (List.range m.heads).flatMap (fun h => (m.owned p0 cnt).flatMap (fun p =>
    (m.rowRanges l h (m.local_ (p / m.g)) (p % m.g)).flatMap (fun r =>
      (List.range r.2).map (fun i => (s.spaceByte 0 4 0 (seq * 2 ^ 40 + r.1 + i)).val)))))

/-- Bytes of the digest buffers that the pattern declares for its cores. -/
def State.digestBytes (s : State) : List Byte :=
  ((List.range 64).flatMap (fun c => (declDigests s.pat.image c).map (fun b => (c, b)))).flatMap (fun e =>
    let b := bufOf (s.core e.1) e.2
    (List.range b.size).map (fun i => (s.spaceByte e.1 b.space b.peer (b.base + i)).val))

def State.epochDigest (s : State) : List Byte :=
  shake256 32 ((sortBy (fun a b => decide (a.1 < b.1)) s.ep.seqs).flatMap (fun e => s.provBytes e.1 e.2) ++ s.digestBytes)

/-! ## Votes -/

/-- Vote on the PREPARE held: OK holds the counts in PREPARED (Table 14.2). -/
def State.castVote (s : State) (e : Nat) (cs : List (Nat × Nat)) (ok : Bool) : State :=
  let s := s.notice "VOTE" 0 [s.selfIdx, e, b2n ok]
  { s with ep := { s.ep with
    st := if ok then .prepared else s.ep.st, prep := if ok then some (e, cs) else none, prepAt := s.now, voteDue := none,
    ackDue := false } }

/-- The two planes' digests of the step differ: both sides raise the knell (R361). -/
def State.mismatched (s : State) : State := (s.logCp 0x84 0 s.twin.word).raiseKnell 0x0B 0 0 0

/-- Vote as the pair allows: after the twin's acknowledgement in MIRROR (R358), after the comparison in SHADOW (R361), POISONED
on the side of a stale shadow pair that is not valid (R363), else alone (R338). -/
def State.tryVote (s : State) : State :=
  match s.ep.voteDue with
  | none => s
  | some (e, cs) =>
    let args := e :: cs.flatMap (fun (c : Nat × Nat) => [c.1, c.2])
    if s.ep.st ≠ .done || (s.ep.ackDue && s.twin.mirroring) then s
    else if s.twin.mirroring then
      if s.twin.paused then (s.stale 3 true).castVote e cs (!s.ep.poison)
      else
        let s := s.emit (.ptNotice "PREPARE" args [])
        { s with ep := { s.ep with ackDue := true, prepAt := s.now } }
    else if s.twin.shadow then
      match s.ep.peerDigest with
      | none => s
      | some d => if d = s.epochDigest then s.castVote e cs (!s.ep.poison) else s.mismatched
    else s.castVote e cs (!s.ep.poison && !(s.twin.st != 0 && s.twin.mode == 1 && !s.twin.valid))

/-- In SHADOW the digest goes with the PREPARE to the twin (R361). -/
def State.sendDigest (s : State) : State :=
  match s.ep.voteDue with
  | some (e, cs) => if s.twin.shadow && s.ep.st == .done then
      s.emit (.ptNotice "PREPARE" (e :: cs.flatMap (fun (c : Nat × Nat) => [c.1, c.2])) s.epochDigest)
    else s
  | none => s

/-! ## Applying a decision -/

/-- A member applies a decision of its lead (Table 14.2): forwarded to a mirroring twin first, acknowledged after. An ABORT that
finds the step running waits for DONE (log 108). -/
def State.takeDecision (s : State) (e : Nat) (commit : Bool) : State :=
  let prepared := s.ep.st == .prepared && s.ep.prep.any (fun p => p.1 == e)
  let done := s.ep.st == .done && s.ep.next == e
  if !commit && s.running && s.ep.next == e then { s with ep := { s.ep with abortDue := some e } }
  else if !(prepared || (done && !commit)) then s
  else
    let s := s.tellTwin "DECISION" [e, b2n commit] []
    let s := if commit then s.applyCommit e ((s.ep.prep.map Prod.snd).getD []) else s.applyAbort e
    let s : State := { s with ep := { s.ep with voteDue := none } }
    s.notice "DECISION_ACK" 0 [s.selfIdx, e]

/-! ## The end of a step -/

/-- Has the step ended on this device (R337). -/
def State.stepEnded (s : State) : Bool :=
  s.live && s.running && s.cp.phase == 4 && s.participants.all (fun c => (s.core c).done) && !s.routerBusy

/-- STEP_RUN completes with the OR of the flag words (R435). -/
def State.completeStep (s : State) : State :=
  let f := s.allFlags % 65536
  (s.mb.jobs.filter (fun j => j.kind == .step)).foldl (fun s j =>
    s.answer j.n (if s.ep.poison then stPoisoned else stOk) 0 (bytes64 [f]) [f]) s

def State.endStep (s : State) : State :=
  let s : State := { s with ep := { s.ep with st := .done } }
  match s.ep.abortDue with
  | some e => ({ s.completeStep with ep := { s.completeStep.ep with abortDue := none } }).takeDecision e false
  | none => s.completeStep.sendDigest.tryVote

def execStepDone (t : Nat) (s : State) : Host.Outcome State Fault Refusal :=
  .next (if (s.at t).stepEnded then (s.at t).endStep else s.at t)

/-! ## PREPARE and its acknowledgement -/

/-- The standby of a mirrored pair records the accepted counts and acknowledges (R358). -/
def State.standbyPrepare (s : State) (e : Nat) (cs : List (Nat × Nat)) : State :=
  ({ s with twin := { s.twin with prepOf := some (e, cs) } }).emit (.ptNotice "PREPARE_ACK" [e] [])

/-- Is this side the standby of a current mirrored pair. -/
def Twin.standby (t : Twin) : Bool := t.st == 1 && t.mode == 0 && t.role == 2
/-- Is this side a standby in MIRROR mode, of a pair in any state (R359). -/
def Twin.mirrorStandby (t : Twin) : Bool := t.st != 0 && t.mode == 0 && t.role == 2

/-- A PREPARE notice. One with a digest comes over PT from the twin of a SHADOW pair and gives the digest alone (R361); the
other is the lead's, and a member votes on it once it is in DONE. One for another epoch, or in IDLE or PREPARED, changes
nothing (Table 14.2). -/
def execPrepareNotice (epoch : Nat) (counts : List (Nat × Nat)) (twinDigest : Option (List Byte)) (t : Nat) (s : State) :
    Host.Outcome State Fault Refusal :=
  .next (
    let s := s.at t
    if s.twin.standby then s.standbyPrepare epoch counts
    else if epoch ≠ s.ep.next || (s.ep.st != .running && s.ep.st != .done) then s
    else match twinDigest with
      | some d => if s.twin.shadow then ({ s with ep := { s.ep with peerDigest := some d } }).tryVote else s
      | none =>
        let fresh := s.ep.voteDue.isNone
        let s := { s with ep := { s.ep with voteDue := some (epoch, counts) } }
        (if fresh then s.sendDigest else s).tryVote)

/-- The twin acknowledges the forwarded PREPARE (R358). -/
def execPrepareAck (epoch : Nat) (s : State) : Host.Outcome State Fault Refusal :=
  .next (match s.ep.voteDue with
    | some (e, cs) => if s.ep.ackDue && e = epoch && s.ep.st == .done then s.castVote e cs (!s.ep.poison) else s
    | none => s)

/-! ## The lead's decision -/

/-- A vote at the lead: a POISONED vote decides ABORT, an OK vote of every member COMMIT (R339). -/
def execVote (m epoch : Nat) (ok : Bool) (s : State) : Host.Outcome State Fault Refusal :=
  .next (match s.commitJob with
    | none => s
    | some j =>
      if !s.isLead || s.lead.decided.isSome || j.args.getD 0 0 ≠ epoch || s.memberCount ≤ m ||
          s.lead.votes.any (fun v => v.1 == m) then s
      else
        let s := { s with lead := { s.lead with votes := s.lead.votes ++ [(m, ok)] } }
        if !ok then (s.sendDecision epoch false).endCommit stPoisoned 0
        else if s.lead.votes.length < s.memberCount then s
        else s.sendDecision epoch true)

/-- The standby applies a decision to its copy of the length table and of NEXT_EPOCH (R358). -/
def State.standbyDecide (s : State) (e : Nat) (commit : Bool) : State :=
  match s.twin.prepOf with
  | none => s
  | some (pe, cs) =>
    if pe ≠ e then s
    else
      let s := if commit then cs.foldl (fun s c =>
          { s with kv := { s.kv with lens := Table.upd Lens.init s.kv.lens c.1 (fun l => { l with committed := l.committed + c.2 }) } }) s
        else s
      let s := s.zeroProv
      { s with
        twin := { s.twin with prepOf := none, nextEpoch := if commit then e + 1 else s.twin.nextEpoch },
        ep := { s.ep with next := if commit then max s.ep.next (e + 1) else s.ep.next, lce := if commit then e else s.ep.lce } }

/-- An acknowledgement at the lead; with every one STEP_COMMIT completes OK (R339). -/
def execDecisionAck (m epoch : Nat) (s : State) : Host.Outcome State Fault Refusal :=
  .next (
    if !s.isLead || s.lead.decided != some (epoch, true) || s.memberCount ≤ m || s.lead.acks.contains m then s
    else
      let s := { s with lead := { s.lead with acks := s.lead.acks ++ [m] } }
      if s.lead.acks.length < s.memberCount then s else s.endCommit stOk 0)

/-- A vote is missing at the commit limit: ABORT, TIMEOUT and the knell (R340). The decision reaches the members as the
knell and its resolution do (log 51). -/
def execVoteLost (t : Nat) (s : State) : Host.Outcome State Fault Refusal :=
  .next (
    let s := s.at t
    match s.commitJob with
    | none => s
    | some j =>
      if s.lead.decided.isSome || !s.isLead || s.now - s.lead.commitAt < s.commitLimit then s
      else
        let s := { s with lead := { s.lead with decided := some (j.args.getD 0 0, false) } }
        (s.endCommit stTimeout 0).raiseKnell 0x08 0 0 0)

/-- A prepared member lacks a decision at the commit limit (R340). -/
def execDecisionLost (t : Nat) (s : State) : Host.Outcome State Fault Refusal :=
  .next (
    let s := s.at t
    if s.ep.st == .prepared && s.ep.prep.any (fun x => x.1 == s.ep.next) && s.commitLimit ≤ s.now - s.ep.prepAt then s.raiseKnell 0x09 0 0 0 else s)

/-! ## The knell notice -/

/-- A knell notice arrives (R342, R343, R359, R361): acted on once for the current epoch and flooded on every other trained
torus port; a standby records it; every other notice is discarded and counted. -/
def execKnellNotice (p : Port) (k : KnellMsg) (t : Nat) (s : State) : Host.Outcome State Fault Refusal :=
  .next (
    let s := s.at t
    if p = .pt && s.twin.mirrorStandby then { s with twin := { s.twin with knell := some (k.epoch, k.origin) } }
    else if s.ep.st ≠ .idle && k.epoch = s.ep.next && s.ep.knell.isNone && (if p = .pt then s.twin.mode == 1 else s.car.member) then
      let s := s.floodKnell k (torusPorts.filter (· != p))
      let s := if p = .pt && k.cause = 0x0B then s.logCp 0x84 0 s.twin.word else s
      s.knellActs k
    else
      let s := if s.ep.knell.any (fun x => x.1.epoch == k.epoch) then s.countExtra else s
      s.count 0 13 1)

/-! ## Quiescence -/

/-- The device's QUIET notice (R344): once its queues and retry buffers hold no flit of the epoch, and again when ABS changes. -/
def execQuietSend (s : State) : Host.Outcome State Fault Refusal :=
  .next (match s.ep.knell with
    | none => s
    | some (k, _) =>
      if s.ep.quiet || s.routerBusy || s.ep.quietSent = some s.ep.absorbed then s
      else
        let s := s.notice "QUIET" 0 ([s.selfIdx, k.epoch, s.ep.orig, s.ep.absorbed, s.ep.lce] ++
          (match s.ep.prep with | some (e, _) => [e] | none => []))
        { s with ep := { s.ep with quietSent := some s.ep.absorbed } })

/-- Resolution (R340): for every epoch that a member is prepared for, the decision that the lead has sent, which is final (R339);
else COMMIT when a member has committed it, else ABORT; a STEP_COMMIT in progress completes with the decision's status (R343). -/
def State.resolve (s : State) (qs : List Quiet) (knellCause : Nat) : State :=
  let es := qs.foldl (fun l q => match q.prepared with | some e => NatSet.insert l e | none => l) []
  es.foldl (fun s e =>
    let commit := match s.lead.decided with
      | some (d, c) => if d = e then c else qs.any (fun q => decide (e ≤ q.lce))
      | none => qs.any (fun q => decide (e ≤ q.lce))
    let s := (qs.filter (fun q => q.prepared == some e)).foldl (fun s q => s.notice "DECISION" q.member [e, b2n commit]) s
    let s : State := { s with lead := { s.lead with decided := some (e, commit) } }
    if s.commitJob.any (fun j => j.args.getD 0 0 == e) then
      (if commit then s.endCommit stOk 0 else s.endCommit stKnell knellCause)
    else s) s

/-- QUIESCED: the member is quiescent (R344) and tells its mirrored twin (Table 15.3). -/
def execQuiesced (epoch : Nat) (s : State) : Host.Outcome State Fault Refusal :=
  .next (
    if !s.ep.quiet && s.ep.knell.any (fun x => x.1.epoch == epoch) then (s.tellTwin "QUIESCED" [epoch] []).setQuiet else s)

/-- No QUIESCED 1 ms after the own notice: the epoch is retired and the device counts as quiescent (R346). -/
def execQuiesceTimeout (t : Nat) (s : State) : Host.Outcome State Fault Refusal :=
  .next (
    let s := s.at t
    match s.ep.knell with
    | none => s
    | some (k, t0) =>
      if s.ep.quiet || s.now - t0 < 1000000 then s else (s.retire k.epoch).setQuiet)

/-- The self-check after a shadow mismatch has run (R362). -/
def execSelfcheck (pass : Bool) (s : State) : Host.Outcome State Fault Refusal :=
  .next (
    if s.ep.selfCheck && s.ep.quiet then
      let s := { s with ep := { s.ep with selfCheck := false } }
      if pass then s else s.stale 7 false
    else s)

end Sys2Proof.Machine
end

