-- ==== Sys2Proof/Machine/Mxu.lean ====
section
/-!
DEFINITION. The matrix product of the MXU (R30 to R35, R51): one cell is one K chunk of one output tile.
-/
namespace Sys2Proof.Machine

/-- Iteration of the K level in a cell, and whether it is the last of its output tile. -/
def kPlace (d : Desc) (bounds idx : List Nat) : Nat × Bool :=
  match d.carrier 3 with
  | some l => (idx.getD l 0, decide (iters (bounds.getD l 1) (d.level l).step ≤ idx.getD l 0 + 1))
  | none => (0, true)

/-- The accumulators with which an output tile begins: +0, or the FP32 elements of stream C (R31). The C input is FP32
whatever FMT_C is (DESIGN CHOICE where an op without an epilogue names another FMT_C; log 85). -/
def mxuStart (k : Core) (r : Run) (d : Desc) (idx : List Nat) (m n : Nat) : List Elem :=
  let t := strmOf k r d 2 .fp32
  (List.range m).flatMap (fun i => (List.range n).map (fun j =>
    if opAcc r.op.w then t.read k.store (t.bitOf d idx 1 i j) else Elem.zero))

/-- One chunk of every output element of a tile (R31). -/
def mxuCell (l : Bool) (k : Core) (r : Run) : CellOut :=
  let w := r.op.w
  let g := engGeo k r
  let d := g.d
  let idx := (g.indices r r.pos).1
  let m := dimLive d r.bounds idx 1
  let n := dimLive d r.bounds idx 2
  let kn := dimLive d r.bounds idx 3
  let (ki, last) := kPlace d r.bounds idx
  let start := if ki = 0 then mxuStart k r d idx m n else []
  let acc0 := if ki = 0 then start.map (fun e => enc32 e.v) else r.acc
  let as := (List.range m).map (fun i => (List.range kn).map (fun q => operand k l r d idx 0 (opFmt w 0) 1 3 i q))
  let bs := (List.range n).map (fun j => (List.range kn).map (fun q => operand k l r d idx 1 (opFmt w 1) 3 2 q j))
  let acc := (List.range (m * n)).map (fun p =>
    let a := as.getD (p / n) []
    let b := bs.getD (p % n) []
    let c := acc0.getD p 0
    if kn = 0 then c else enc32 (accChunk (dec32 c) ((a.zip b).map (fun e => e.1.v.mul e.2.v))))
  let els := start ++ as.flatMap id ++ bs.flatMap id
  let nan := acc.foldl (fun f c => f ||| nanFlag (dec32 c)) 0
  if last then
    let x : EpiCtx := ⟨k, l, r, d, idx⟩
    let rows := (List.range m).map (fun i => (List.range n).map (fun j =>
      (⟨dec32 (acc.getD (i * n + j) 0), acc.getD (i * n + j) 0, [], 0⟩ : Elem)))
    let t := x.run ⟨dimBase d idx 1, dimBase d idx 2, rows, (0, n), 0, [], []⟩
    let outs := t.rows.flatMap id
    ⟨readsOf els ++ readsOf outs, flagsOf els ||| nan ||| flagsOf outs, t.effs ++ x.write t, [], t.leaves⟩
  else ⟨readsOf els, flagsOf els ||| nan, [], acc, []⟩

end Sys2Proof.Machine
end

