-- ==== Sys2Proof/Machine/Tmv.lean ====
section
/-!
DEFINITION. The tile mover (R203 to R210, R222 to R224, R226 to R234): one cell is one innermost tile, copied byte
by byte, with its faults by granule.
-/
namespace Sys2Proof.Machine

/-! ## The fetch part of the staging cache (R223, R224) -/

def State.fetchSets (s : State) : Nat := (60 * 2 ^ 20 - patExplicit s.pat.image) / 1024 / 16

/-- Do all reads of a line's bursts give the contents that DRAM holds: no uncorrectable or undetected error stands (R253,
R255). -/
def State.lineSound (s : State) (line : Nat) : Bool :=
  (List.range 8).all (fun i =>
    let b := 8 * line + i
    (Table.get [] s.dram.errs b).isEmpty || (match s.dramOut b with
      | .ue => false
      | _ => (List.range 128).all (fun j => s.dramByte (128 * b + j) == s.dram.bytes.read (128 * b + j))))

/-- A FETCH read of a line: most recent first, 16 ways to a set. A line whose read failed is not kept. -/
def State.fetchLine (s : State) (line : Nat) : State :=
  if !s.fab.fetch.contains line && !s.lineSound line then s
  else
  let set_ (l : Nat) : Nat := Config.fetchSet s.fetchSets l
  let rest := s.fab.fetch.filter (fun l => l != line)
  let mates := rest.filter (fun l => set_ l == set_ line)
  let rest := if 16 ≤ mates.length then rest.filter (fun l => some l != mates.getLast?) else rest
  { s with fab := { s.fab with fetch := line :: rest } }

/-! ## Source bytes -/

/-- One source byte of a TMV op: a byte that the twin supplied, a fetch hit, or the space. -/
def State.tmvByte (s : State) (c : Nat) (r : Run) (b : Buf) (a : Nat) : RByte :=
  match r.patch.find? (fun x => x.1 == a) with
  | some x => ⟨x.2, false, 0, false, none⟩
  | none =>
    if opCode r.op.w = 3 && s.fab.fetch.contains (a / 1024) then
      ⟨s.dram.bytes.read a, NatSet.has s.dram.poison (a / 128), 0, false, none⟩
    else s.spaceByte c b.space b.peer a

/-- DRAM address that a source byte comes from, if any. -/
def State.dramOf (s : State) (space a : Nat) : Option Nat :=
  match space with
  | 3 => some a
  | 4 => match s.locate a false with | .dram d _ => some d | _ => none
  | _ => none

/-- A field of a tile: source addresses, destination bit offset, bits, source bit within its first byte. -/
structure Move where
  src : List Nat
  sbit : Nat
  dst : Int
  n : Nat
  deriving DecidableEq, Repr

/-- The in-bound elements of a cell as moves, in row order; wide elements move byte by byte (R92, R203). -/
def tmvMoves (k : Core) (r : Run) : List Move :=
  let g := engGeo k r
  let d := g.d
  let idx := (g.indices r r.pos).1
  let f := opFmt r.op.w 0
  let a := strmOf k r d 0 f
  let c := strmOf k r d 2 f
  let m := dimLive d r.bounds idx 1
  let n := dimLive d r.bounds idx 2
  (List.range m).flatMap (fun i => (List.range n).flatMap (fun j =>
    let sb := a.bitOf d idx 1 i j
    let db := c.bitOf d idx 1 i j
    if f.bits % 8 = 0 then
      (List.range (f.bits / 8)).map (fun (q : Nat) =>
        ⟨bitAddrs a.buf (sb + ((8 * q : Nat) : Int)) 8, 0, db + ((8 * q : Nat) : Int), 8⟩)
    else [⟨bitAddrs a.buf sb f.bits, (sb % 8).toNat, db, f.bits⟩]))

/-! ## Halting (R231, R232) -/

/-- Ask the twin for the bytes of a granule (R227, R364). -/
def State.askTwin (s : State) (space a n : Nat) : State := s.emit (.ptNotice "REFETCH_REQUEST" [space, a, n] [])

/-- Begin the repair of a halted stream by Table 8.8. -/
def State.beginRepair (s : State) (code space a : Nat) (second : Bool) : State :=
  let g := s.granuleAt space a false
  match code with
  | 0x10 => match s.locate a false, s.locate a true with
    | .fault 0x10, _ | _, .fault 0x10 =>
      match s.pageOf (a / 2 ^ 40) (a % 2 ^ 40 / pageBytes) with
      | some rc => if ((s.page rc).map Page.st) = some 0 then (s.promote rc).1 else s
      | none => s
    | _, _ => s
  | 0x20 => s.askTwin space (a / g * g) g
  | 0x13 => if second then s.askTwin space (a / g * g) g else s
  | _ => s

/-- The tags that a stream may hold at once: TAGSM1 + 1, within the pool of its path (R211, R213, log 120). -/
def opTags (w : List Nat) : Nat := min (fld (opImm w 0) 24 16 + 1) (hostTags - cpTags)

/-- A stream halts at a granule: context, notice, repair (R231, R232). INFLIGHT is free up to the stream's tags (R213, log 8). -/
def State.haltStream (s : State) (c : Nat) (r : Run) (code space a gran : Nat) (write : Bool) : State :=
  let base := s.granBase space a write
  let second := code == 0x13 && r.retry == some base
  if second && (!s.canRefetch || space == 5) then s.faultKnell c code (opId r.op.w) a 0x02
  else
    let tags := Config.freeNat s.free % (opTags r.op.w + 1)
    let h : Halt := ⟨code, gran, base, space, s.beatNo, s.now, tags, s.granuleAt space a write, s.now⟩
    let s := ((s.drew 1).logFault c code (opId r.op.w) a).setEng c 6
      (some { r with halt := some h, retry := if code = 0x13 && !second then some base else none })
    let s := if s.car.member then s.noticeAll "HALT" [s.selfIdx] else s
    s.beginRepair code space a second

/-- A read that ends its stream's cell meets an uncorrectable burst: it is counted and logged, and its row is spared; only
under flow does it join the bursts to rewrite (R230, R253, R259). -/
def State.noteUe (s : State) (fclass code space a : Nat) : State :=
  match (if code = 0x20 then s.dramOf space a else none) with
  | none => s
  | some d =>
    let t := s.dramNote (d / 128)
    if fclass = 3 || s.haltPolicy fclass then { t with dram := { t.dram with rewrite := s.dram.rewrite } } else t

/-! ## One cell -/

/-- What stops a cell: nothing, a wait on a page, the knell, or a halt at a fault. -/
inductive TmvStop where
  | none | wait | halt (code space addr gran : Nat) (write : Bool)
  deriving DecidableEq, Repr

/-- Outcome of checking the moves of a cell in order: the knell, the moves that go through with their poison, what
stops the rest, faulted granules, dropped destinations. -/
structure TmvPlan where
  dead : Bool
  go : List (Move × Bool)
  stop : TmvStop
  bad : List Nat
  drop : List Nat
  s : State
  deriving DecidableEq, Repr

/-- The source granules of a cell whose read faults, each with its code and the first byte that faults (R214, R227). -/
def State.tmvFaults (s : State) (c : Nat) (r : Run) (ba : Buf) (mvs : List Move) : List (Nat × Nat × Nat) :=
  mvs.foldl (fun l mv => mv.src.foldl (fun l a =>
    let f := (s.tmvByte c r ba a).fault
    let g := s.granBase ba.space a false
    if f = 0 || l.any (fun x => x.1 == g) then l else l ++ [(g, f, a)]) l) []

/-- Different numbers of a list. -/
def granulesOnce (l : List Nat) : Nat := (l.foldl NatSet.insert []).length

/-- One move of a cell: a fault takes its whole granule of the source, or of the destination (Table 8.8, R228). GRANULE counts
those of the path that faults (R206, R215). -/
def State.checkMove (c : Nat) (r : Run) (ba bc : Buf) (faults : List (Nat × Nat × Nat)) (p : TmvPlan) (mv : Move) : TmvPlan :=
  if p.dead || p.stop ≠ .none then p
  else
    let s := p.s
    let fc := opFclass r.op.w
    let id := opId r.op.w
    let rb := mv.src.map (fun a => (a, s.tmvByte c r ba a))
    let da := (bitAddrs bc mv.dst mv.n)
    let wr := da.map (fun a => (a, s.writeCheck bc.space a))
    if rb.any (fun x => x.2.wait) || wr.any (fun x => x.2.2) then { p with stop := .wait }
    else match mv.src.findSome? (fun a => faults.find? (fun x => x.1 == s.granBase ba.space a false)) with
      | some (g, code, a) =>
        if p.bad.contains g then { p with go := p.go ++ [(mv, true)] }
        else match s.faultAct fc code false with
          | .knell cause => { p with dead := true, s := (s.noteUe fc code ba.space a).faultKnell c code id a cause }
          | .halt =>
            let n := granulesOnce (p.go.map (fun e => s.granBase ba.space (e.1.src.headD 0) false))
            { p with stop := .halt code ba.space a n false, s := s.noteUe fc code ba.space a }
          | _ => { p with bad := g :: p.bad, go := p.go ++ [(mv, true)], s := (s.logFault c code id a).setPoison }
      | none =>
        let poison := rb.any (fun x => x.2.poison)
        match wr.find? (fun x => x.2.1 ≠ 0) with
        | some (a, code, _) =>
          let g := s.granBase bc.space a true
          if p.drop.contains g then p
          else match s.faultAct fc code true with
            | .knell cause => { p with dead := true, s := s.faultKnell c code id a cause }
            | .halt =>
              let n := granulesOnce (p.go.map (fun e => s.granBase bc.space ((bitAddrs bc e.1.dst e.1.n).headD 0) true))
              { p with stop := .halt code bc.space a n true }
            | _ => { p with drop := g :: p.drop, s := (s.logFault c code id a).setPoison }
        | none =>
          if poison && fc = 3 then { p with dead := true, s := s.faultKnell c 0x21 id (mv.src.headD 0) 0x01 }
          else if poison && !p.go.any Prod.snd then
            { p with go := p.go ++ [(mv, true)], s := (s.logFault c 0x21 id (mv.src.headD 0)).setPoison }
          else { p with go := p.go ++ [(mv, poison)] }

/-- Does the TMV of core c wait for the promotion of a page record (Table 7.6). -/
def State.waitsFor (s : State) (c rec : Nat) : Bool :=
  match s.eng c 6 with
  | none => false
  | some r =>
    let k := s.core c
    let ba := bufOf k (opBuf r.op.w 0)
    let bc := bufOf k (opBuf r.op.w 2)
    r.tileOpen && r.halt.isNone && !r.ready && decide (r.pos < runTotal k r) && (tmvMoves k r).any (fun mv =>
      mv.src.any (fun a => let x := s.tmvByte c r ba a; x.wait && x.page == some rec) ||
      (bc.space == 4 && (bitAddrs bc mv.dst mv.n).any (fun a => s.locate a true == .wait rec)))

/-- The destination cells of moves; a byte of a faulted granule is free (R228, log 8). -/
def State.moveCells (s : State) (c : Nat) (r : Run) (ba bc : Buf) (bad : List Nat) (go : List (Move × Bool)) : State × List WByte :=
  let fs := go.mapIdx (fun i e =>
    let code := if e.1.src.any (fun a => bad.contains (s.granBase ba.space a false)) then (Config.freeByte (s.free + i)).toNat
      else (leNat (e.1.src.map (fun a => (s.tmvByte c r ba a).val)) >>> e.1.sbit) % 2 ^ e.1.n
    (e.1.dst, e.1.n, code))
  let badDst := (go.filter Prod.snd).flatMap (fun e => bitAddrs bc e.1.dst e.1.n)
  (s.drew (if bad.isEmpty then 0 else go.length), (packFields bc fs).map (fun x => { x with poison := badDst.contains x.addr }))

/-- What the reads of a cell do beside their data: corrected store errors, DRAM outcomes, page stamps, fetch lines. -/
def State.noteReads (s : State) (c : Nat) (r : Run) (ba : Buf) (all : List Nat) : State :=
  let as := all.filter (fun a => !r.patch.any (fun x => x.1 == a))
  let k := if ba.space = 1 then ba.peer else c
  let lanes := if ba.space ≤ 1 then (as.map (· / 8)).foldl NatSet.insert [] else []
  let s := s.count 3 (4 * k) (lanes.filter (fun l => popcount (Table.get 0 (s.core k).flips l) == 1)).length
  let fetch := opCode r.op.w == 3
  let miss := if fetch then as.filter (fun a => !s.fab.fetch.contains (a / 1024)) else as
  let bursts := (miss.filterMap (fun a => s.dramOf ba.space a)).foldl (fun l a => NatSet.insert l (a / 128)) []
  let pages := if ba.space = 4 then
      (as.filterMap (fun a => s.pageOf (a / 2 ^ 40) (a % 2 ^ 40 / pageBytes))).foldl NatSet.insert []
    else []
  let lines := if fetch then (as.map (· / 1024)).foldl NatSet.insert [] else []
  let s := bursts.foldl State.dramNote s
  let s := pages.foldl (fun s p => s.touchPage p false) s
  lines.foldl State.fetchLine s

/-- Does a byte that a move reads or writes lie in DRAM; a fetch hit or a byte that the twin supplied does not. -/
def State.moveInDram (s : State) (r : Run) (ba bc : Buf) (mv : Move) : Bool :=
  mv.src.any (fun a => (s.dramOf ba.space a).isSome && !r.patch.any (fun x => x.1 == a) &&
    !(opCode r.op.w == 3 && s.fab.fetch.contains (a / 1024))) ||
  (bc.space == 3 || (bc.space == 4 && (bitAddrs bc mv.dst mv.n).any (fun a => s.locate a true matches .dram _ _)))

/-- One cell of a TMV op. One that needs DRAM waits while DRAM is closed (R241, R246). -/
def State.tmvCell (s : State) (c : Nat) (r : Run) : State × Bool :=
  let k := s.core c
  let w := r.op.w
  let ba := bufOf k (opBuf w 0)
  let bc := bufOf k (opBuf w 2)
  let mvs := tmvMoves k r
  let att := opCode w != 2 && (attachesOf s.pat.image).any (fun a => !a.out && a.core == c && a.buf == opBuf w 2)
  let bound := s.cBound c w || att
  if s.dram.closed && mvs.any (fun mv => s.moveInDram r ba (if bound then { bc with space := 0 } else bc) mv) then (s, false)
  else
  let p := mvs.foldl (State.checkMove c r ba bc (s.tmvFaults c r ba mvs)) ⟨false, [], .none, [], [], s⟩
  if p.dead then (p.s, false)
  else if p.stop = .wait then (s, false)
  else
    let (s, cs) := p.s.moveCells c r ba bc p.bad p.go
    let s := s.noteReads c r ba (p.go.flatMap (fun e => e.1.src))
    let last := (r.pos + 1) % runCells k r == 0
    let opLast := decide (runTotal k r ≤ r.pos + 1) && decide (r.entries ≤ r.entry + 1) && !opWctrEn w
    let sig : Option Sig := match opSig w 0 with
      | some (t, g) => if s.cBound c w && last && (t || opLast) then some g else none
      | none => none
    let prev := r.held.flatMap (fun e => match e with | .out _ x _ => x | _ => [])
    let done := p.stop == .none
    let hold := !bound && (r.drawn.isSome && (match Table.get none s.fab.ctrs (opWctr w) with | some x => x.factor != 0 | none => false))
    let effs : List Eff := if opCode w = 2 then (mcastCores w).map (fun x => .write 1 x cs) else [.write bc.space bc.peer cs]
    let r' := { r with
      pos := if done then r.pos + 1 else r.pos,
      patch := if done then [] else r.patch, reqAt := s.now, sig0 := r.sig0 || (done && opLast && sig.isSome),
      held := if bound && done then [.out (opBuf w 2) (prev ++ cs) sig] else if hold && done then r.held ++ effs else r.held }
    let s := s.setEng c 6 (some r')
    let s := if bound || hold then s
      else if opCode w = 2 then (mcastCores w).foldl (fun s x => ((cs.head?.map (fun y => s.noteRange x y.addr 1)).getD s).storeWrite x (s.landing x 0 x cs)) s
      else
        let s := if bc.space = 0 then s.noteWritten c bc else if bc.space = 1 then s.noteWritten bc.peer bc else s
        s.spaceWrite c bc.space bc.peer (s.landing c bc.space bc.peer cs)
    match p.stop with
    | .halt code sp a g wr => (s.haltStream c r' code sp a g wr, false)
    | _ => (s, true)

end Sys2Proof.Machine
end

