-- ==== Sys2Proof/Machine/Vu.lean ====
section
/-!
DEFINITION. The VU (R29), the SFU (R130 to R137, R142) and the RSU (R36, R37): one cell is one innermost tile.
-/
namespace Sys2Proof.Machine

/-- The operand lane (m, n) of a stream: its in-bound element widened to FP32, or the padding value (R89, R90). -/
def lane (k : Core) (l : Bool) (r : Run) (d : Desc) (idx : List Nat) (i m n : Nat) : Elem :=
  let f := opFmt r.op.w i
  if m < dimLive d r.bounds idx 1 && n < dimLive d r.bounds idx 2 then
    (operand k l r d idx i f 1 2 m n).widen
  else ⟨(widen32 (padVal f (d.pad.getD i 0))).1, 0, [], 0⟩

/-- The FP32 result of a VU opcode on the lanes of A, B and X (R29). -/
def vuVal (kind : Config.VuKind) (imm : Nat) (a b x : Val) : Val :=
  match kind with
  | .add => add32 a b
  | .sub => sub32 a b
  | .mul => mul32 a b
  | .fma => fma32 a b x
  | .mulImm => mul32 a (dec32 imm)
  | _ => a

/-- Which streams an opcode reads beside A. -/
def vuReads (kind : Config.VuKind) : Bool × Bool :=
  match kind with
  | .add | .sub | .mul => (true, false)
  | .fma => (true, true)
  | _ => (false, false)

/-- Write a tile into a block-scaled stream C without a chain: blocks run along the contiguous dimension, N or M. -/
def EpiCtx.quantTile (z : EpiCtx) (t : OTile) : List Eff × List Elem :=
  let f := opFmt z.r.op.w 2
  let c := strmOf z.k z.r z.d 2 f
  let at_ (r j : Nat) (e : Elem) : Int × Elem := (z.bitC t f r j, e)
  let byRow := t.rows.mapIdx (fun r es => es.mapIdx (fun j e => at_ r j e))
  let lines := if c.colD = 1 then (List.range t.own.2).map (fun j => byRow.filterMap (fun es => es[j]?)) else byRow
  let q := lines.map (quantLine c)
  let els := q.flatMap Prod.fst
  ([.write 0 0 (packFields c.buf (els.map (fun e => (e.1, f.bits, e.2.code)))), .write 0 0 (q.flatMap Prod.snd)],
   els.map Prod.snd)

/-- Columns of a VU tile that its chain works on: where a QUANT stage fixes blocks of 32 columns that tiles may cut, also
those of the neighbouring tiles that share a block with it (R121; log 86). -/
def quantCols (z : EpiCtx) (lo n : Nat) : Nat × Nat :=
  let cut := match chainFor z.k (opEpi z.r.op.w) with
    | some ch => ch.stages.any (fun s => s.code == 0x13 && (fmtOf s.fmt).scaled) &&
        dimLanes z.d 2 % (32 * 2 ^ swiglus (some ch) 2) != 0
    | none => false
  let bound := match z.d.carrier 2 with | some l => z.r.bounds.getD l 0 | none => 1
  if cut then (lo / 128 * 128, min bound (roundUp (lo + n) 128)) else (lo, lo + n)

def vuCell (l : Bool) (k : Core) (r : Run) : CellOut :=
  let w := r.op.w
  let g := engGeo k r
  let d := g.d
  let idx := (g.indices r r.pos).1
  let m := dimLive d r.bounds idx 1
  let n := dimLive d r.bounds idx 2
  let x : EpiCtx := ⟨k, l, r, d, idx⟩
  match Config.vuOpcode (opCode w) with
  | none => CellOut.none
  | some kind =>
    if opReduces w then
      let nl := dimLanes d 2
      let c := strmOf k r d 2 (opFmt w 2)
      let rows := (List.range m).map (fun i => (List.range nl).map (fun j => (j, lane k l r d idx 0 i j)))
      let ls := (rows.mapIdx (fun i es => es.map (fun e =>
        (⟨0, c.bit d idx 0 i, dimBase d idx 2 + e.1, encX e.2.v, false, idx, i⟩ : Leaf)))).flatten
      let els := rows.flatMap (fun es => es.map Prod.snd)
      ⟨readsOf els, flagsOf els, [], [], ls⟩
    else
      let (ub, ux) := vuReads kind
      let lo := dimBase d idx 2
      let (c0, c1) := quantCols x lo n
      let at_ (i row col : Nat) : Elem := (x.operandAt i (opFmt w i) 1 row col).widen
      let rows := (List.range m).map (fun i => (List.range (c1 - c0)).map (fun j =>
        let row := dimBase d idx 1 + i
        let a := at_ 0 row (c0 + j)
        let b := if ub then at_ 1 row (c0 + j) else Elem.zero
        let z := if ux then at_ 3 row (c0 + j) else Elem.zero
        let v := vuVal kind (opImm w 0) a.v b.v z.v
        (⟨v, 0, a.rd ++ b.rd ++ z.rd, a.fl ||| b.fl ||| z.fl ||| nanFlag v⟩ : Elem)))
      let t := x.run ⟨dimBase d idx 1, c0, rows, (lo - c0, n), 0, [], []⟩
      let (out, els) := if (opFmt w 2).scaled && opEpi w = 0 then x.quantTile t else (x.write t, t.rows.flatMap id)
      ⟨readsOf (rows.flatMap id) ++ readsOf els, flagsOf els ||| flagsOf (rows.flatMap id), t.effs ++ out, [], t.leaves⟩

/-! ## SFU -/

/-- The built-in function of an SFU opcode (Table 5.1). -/
def sfuFn : Nat → Option Fn
  | 1 => some .exp | 2 => some .exp2 | 3 => some .log | 4 => some .log2 | 5 => some .rcp | 6 => some .rsqrt | _ => none

/-- The step words of a rudiment, without its END (R142, R143). -/
def Rudiments.words (p : Rudiments) (id : Nat) : Option (List Nat) :=
  (p.dir.find? (fun e => e.id == id)).map (fun e => (p.steps.drop e.first).take e.count)

/-- Is the package Unjor's library, by its digest (R507). -/
def Rudiments.isLib (p : Rudiments) : Bool := p.digest == (List.range 32).map Config.libDigest

/-- The FP32 result of an SFU op on one lane. -/
def sfuVal (l : Bool) (p : Rudiments) (w : List Nat) (x : Val) : Val :=
  match sfuFn (opCode w) with
  | some f => builtin l f x
  | none =>
    let id := opImm w 0 % 256
    match p.words id with
    | some ws =>
      let y := dec32 (rudRun p.table ws [enc32 x, 0, 0, 0, 0, 0, 0, 0])
      if p.isLib then libResult id x y else y
    | none => x

def sfuCell (l : Bool) (p : Rudiments) (k : Core) (r : Run) : CellOut :=
  let w := r.op.w
  let g := engGeo k r
  let d := g.d
  let idx := (g.indices r r.pos).1
  let f := opFmt w 2
  let rows := (List.range (dimLive d r.bounds idx 1)).map (fun i =>
    (List.range (dimLive d r.bounds idx 2)).map (fun j =>
      let a := lane k l r d idx 0 i j
      let v := sfuVal l p w a.v
      ({ a with fl := a.fl ||| nanFlag v }).toFmt f v))
  let x : EpiCtx := ⟨k, l, r, d, idx⟩
  let els := rows.flatMap id
  ⟨readsOf els, flagsOf els,
   x.write ⟨dimBase d idx 1, dimBase d idx 2, rows, (0, dimLive d r.bounds idx 2), 0, [], []⟩, [], []⟩

/-! ## RSU -/

/-- The leaves of a tile's rows: each element goes to FP32X at its exact value, whatever its format (R36). -/
def rsuCell (l : Bool) (k : Core) (r : Run) : CellOut :=
  let w := r.op.w
  let g := engGeo k r
  let d := g.d
  let idx := (g.indices r r.pos).1
  let c := strmOf k r d 2 (opFmt w 2)
  let rows := (List.range (dimLive d r.bounds idx 1)).map (fun i =>
    (List.range (dimLive d r.bounds idx 2)).map (fun j => operand k l r d idx 0 (opFmt w 0) 1 2 i j))
  let ls := (rows.mapIdx (fun i es => es.mapIdx (fun j e =>
    (⟨0, c.bit d idx 0 i, dimBase d idx 2 + j, encX e.v, false, idx, i⟩ : Leaf)))).flatten
  let els := rows.flatMap id
  ⟨readsOf els, flagsOf els, [], [], ls⟩

end Sys2Proof.Machine
end

