-- ==== Sys2Proof/Machine/Engine.lean ====
section
/-!
DEFINITION. The run of an op on its engine: it goes on from cell to cell until its waits, its work counter, a page,
a halt or its end stops it (R57, R65, R78, R87, R96 to R102).
-/
namespace Sys2Proof.Machine

/-- One cell of a running op, by engine. -/
def State.runCell (s : State) (c e : Nat) (r : Run) : State × Bool :=
  let k := s.core c
  let l := s.profileL
  let w := r.op.w
  if e = 6 then s.tmvCell c r
  else if e = 5 then s.takeCell c e (lwuCell k r)
  else if e = 4 then s.takeCell c e (rsuCell l k r)
  else if e = 3 then s.takeCell c e (sfuCell l s.rud k r)
  else if e = 2 then s.takeCell c e (vuCell l k r)
  else if opAttn w then
    let seq := fld (opImm w 2) 15 0
    let len := Table.get Lens.init s.kv.lens seq
    s.takeCell c e (attnCell l ((Table.find s.ep.formats seq).toList) len.committed k r)
  else s.takeCell c e (mxuCell l k r)

/-- The nest, or the entry, is done. -/
def State.endNest (s : State) (c e : Nat) (r : Run) : State × Bool :=
  if r.entry + 1 < r.entries then
    ((s.writeRows c r).setEng c e (some { r with
      entry := r.entry + 1, begun := opPlist r.op.w == 0xFF, pos := 0, leaves := [] }), true)
  else (s.completeOp c e r, false)

/-- A drawn tile without work, or whose cells are done. -/
def State.endDraw (s : State) (c e : Nat) (r : Run) : State × Bool :=
  let factor := match Table.get none s.fab.ctrs (opWctr r.op.w) with | some x => x.factor | none => 0
  if factor ≠ 0 then (s.setEng c e (some { r with ready := true }), false)
  else (s.drawDone c e r, true)

/-- One move of a running op: false when it has to stop. -/
def State.engStep (s : State) (c e : Nat) : State × Bool :=
  match s.eng c e with
  | none => (s, false)
  | some r =>
    let k := s.core c
    let w := r.op.w
    if r.halt.isSome || r.ready || !s.running then (s, false)
    else if opWctrEn w && r.drawn.isNone then (s, false)
    else if !r.begun then
      if r.entries = 0 then (s.completeOp c e r, false) else s.beginEntry c e r
    else if r.tileOpen && e ≠ 6 && !r.held.isEmpty && r.pos % runCells k r = 0 then s.endTile c e
    else if runTotal k r ≤ r.pos then
      if r.drawn.isSome then s.endDraw c e r else s.endNest c e r
    else if !r.tileOpen then
      let ws := if kZero k r then [] else opTileWaits w
      if k.waitsOk ws then
        let s := s.noteLate c r.headFrom [] ws
        ((s.updCore c (fun k => k.takeWaits ws)).setEng c e (some { r with tileOpen := true, reqAt := s.now }), true)
      else (s, false)
    else
      match s.runCell c e r with
      | (s, false) => (s, false)
      | (s, true) => match s.eng c e with
        | none => (s, false)
        | some r => if r.pos % runCells k r = 0 then s.endTile c e else (s, true)

/-- Run an op until it stops; the fuel is beyond the cells of any verified op. -/
def State.engLoop : Nat → State → Nat → Nat → State
  | 0, s, _, _ => s
  | n + 1, s, c, e => match s.engStep c e with
    | (s, true) => State.engLoop n s c e
    | (s, false) => s

def engFuel : Nat := 2 ^ 60

/-- May core c execute: its step runs and its clock is not gated (R244, R397). -/
def State.coreLive (s : State) (c : Nat) : Bool := s.live && s.running && s.cp.phase == 4 && !(s.core c).gated

/-- An engine row: start the op at the queue's head when its per-op waits are satisfied, or go on with the one that
runs, when its opcode is the row's (R65). -/
def State.engineRow (s : State) (c e : Nat) (ok : Nat → Bool) (t : Nat) (up : List (Nat × Nat)) : State :=
  let s := (s.at t).upset c up
  if !s.coreLive c then s
  else match s.eng c e with
    | some r => if ok (opCode r.op.w) then s.engLoop engFuel c e else s
    | none => match (Table.get [] (s.core c).queues e).head? with
      | some q =>
        if ok (opCode q.w) && (s.core c).waitsOk (opStartWaits q.w) then (s.startOp c e q).engLoop engFuel c e else s
      | none => s

end Sys2Proof.Machine
end

