-- ==== Sys2Proof/Machine/TierCmds.lean ====
section
/-!
DEFINITION. The tier commands (R195 to R200, R437) and the events of page copies: completions, errors, the last write in
flight and the forced-eviction limit (Table 7.6).
-/
namespace Sys2Proof.Machine

/-! ## The commands on one page record: the state and the outcome, none while it is open -/

def State.prefetchPage (s : State) (r : Nat) : State × Option Nat :=
  match s.page r with
  | none => (s, some stNotInState)
  | some p =>
    match p.st with
    | 0 => match s.promote r with
      | (s, false) => (s, some stNoResource)
      | (s, true) => (s, none)
    | 1 => (s, none)
    | 2 => (s, some stOk)
    | _ =>
      if p.forced then (Page.upd s r (fun p => { p with prefetch := true }), none)
      else (s.abandonEvict r, some stOk)

/-- An unforced eviction. -/
def State.evictPage (s : State) (r : Nat) : State × Option Nat :=
  match s.page r with
  | none => (s, some stOk)
  | some p =>
    match p.st with
    | 0 => (s, some stOk)
    | 1 => (s, some stNotInState)
    | 2 =>
      if p.home = 0 then (s, some stNoResource)
      else if p.pin ≠ 0 then (s, some stNotInState)
      else if p.dirty then ((Page.upd s r (fun p => { p with st := 3, forced := p.evpend, evpend := false })).startCopy r, none)
      else (((s.toHost r).settleUnits .tierEvict r stOk none).finishTiers, some stOk)
    | _ => (s, none)

/-- A forced eviction: EVPEND, then R196. -/
def State.forcePage (s : State) (r : Nat) : State × Option Nat :=
  match s.page r with
  | none => (s, some stOk)
  | some p =>
    match p.st with
    | 0 => (s, some stOk)
    | 1 => (Page.upd s r (fun p => { p with evpend := true }), none)
    | 2 =>
      if p.home = 0 then (s, some stNoResource)
      else
        let s := (Page.upd s r (fun p => { p with evpend := true })).settle r
        (s, if (s.page r).map Page.st = some 0 then some stOk else none)
    | _ => (Page.upd s r (fun p => { p with forced := true }), none)

def State.pinUnit (s : State) (r : Nat) : State × Option Nat :=
  match s.page r with
  | none => (s, some stNotInState)
  | some p => if 65535 ≤ p.pin then (s, some stNoResource) else (s.pinPage r, some stOk)

def State.unpinUnit (s : State) (r : Nat) : State × Option Nat :=
  match s.page r with
  | none => (s, some stNotInState)
  | some p => if p.pin = 0 then (s, some stNotInState) else (s.unpinPage r, some stOk)

/-! ## A range of region pages -/

/-- Work on the pages in ascending order (R200): units are (record + 1, outcome), record 0 for an unmapped page. -/
def State.tierUnits (s : State) (seq first cnt unmapped : Nat) (act : State → Nat → State × Option Nat) :
    State × List (Nat × Option Nat) :=
  (List.range cnt).foldl (fun a i =>
    match a.1.pageOf seq (first + i) with
    | none => (a.1, a.2 ++ [(0, some unmapped)])
    | some r =>
      let x := act a.1 r
      (x.1, a.2 ++ [(r + 1, x.2)])) (s, [])

/-- Answer a tier command at once, or keep it as a job until every unit has its outcome. -/
def State.tierEnd (s : State) (n : Nat) (kind : JobKind) (us : List (Nat × Option Nat)) (deadline : Option Nat) (force : Bool) : State :=
  if us.all (fun u => u.2.isSome) then s.replyUnits n (us.map (fun u => u.2.getD 0)) []
  else { s with mb := { s.mb with jobs := s.mb.jobs ++ [⟨n, kind, us, deadline, [], [b2n force]⟩] } }

/-- The argument words of a tier command (R437). -/
structure TierArgs where
  seq : Nat
  first : Nat
  count : Nat
  force : Bool
  limit : Nat
  deriving DecidableEq, Repr

def tierArgs (bs : List Byte) : TierArgs :=
  ⟨fld (argW bs 0) 15 0, fld (argW bs 0) 63 32, fld (argW bs 1) 31 0, bitAt (argW bs 1) 32, fld (argW bs 1) 63 48⟩

/-- Why a tier command is refused (R437). -/
def State.tierRefuse (s : State) (a : TierArgs) (bytes : Nat) : Option Nat :=
  firstFail [
    (decide (a.seq < 4096) && !(s.lens a.seq).isOpen, stNotInState),
    (bytes != 16 || decide (4095 < a.seq) || a.count == 0 || decide (2 ^ 22 < a.count) ||
      decide (hdrSize (s.hdr a.seq) < (a.first + a.count) * pageBytes), stBadArg)]

/-- Masks of A0 and A1; FORCE and LIMIT are 0 but for TIER_EVICT. -/
def tierMasks (evict : Bool) : List Nat := [bits 63 32 + bits 15 0, bits 31 0 + (if evict then bits 63 48 + bits 32 32 else 0)]

def State.tierRun (s : State) (n : Nat) (bs : List Byte) (k : TierArgs → State) : State :=
  match s.tierRefuse (tierArgs bs) bs.length with
  | some c => s.fail n c
  | none => k (tierArgs bs)

def execTierPrefetch (n : Fin 64) (s : State) : Host.Outcome State Fault Refusal :=
  .next (s.serve n.val 0x60 (tierMasks false) (fun s bs => s.tierRun n.val bs (fun a =>
    let x := s.tierUnits a.seq a.first a.count stNotInState State.prefetchPage
    x.1.tierEnd n.val .tierPrefetch x.2 none false)))

def execTierEvict (n : Fin 64) (t : Nat) (s : State) : Host.Outcome State Fault Refusal :=
  .next ((s.at t).serve n.val 0x61 (tierMasks true) (fun s bs => s.tierRun n.val bs (fun a =>
    let x := s.tierUnits a.seq a.first a.count stOk (if a.force then State.forcePage else State.evictPage)
    let limit := (if a.limit = 0 then 100 else a.limit) * 100000000
    x.1.tierEnd n.val .tierEvict x.2 (if a.force then some (s.now + limit) else none) a.force)))

def execTierPin (n : Fin 64) (s : State) : Host.Outcome State Fault Refusal :=
  .next (s.serve n.val 0x62 (tierMasks false) (fun s bs => s.tierRun n.val bs (fun a =>
    let x := s.tierUnits a.seq a.first a.count stNotInState State.pinUnit
    x.1.tierEnd n.val .tierPrefetch x.2 none false)))

def execTierUnpin (n : Fin 64) (s : State) : Host.Outcome State Fault Refusal :=
  .next (s.serve n.val 0x63 (tierMasks false) (fun s bs => s.tierRun n.val bs (fun a =>
    let x := s.tierUnits a.seq a.first a.count stNotInState State.unpinUnit
    x.1.tierEnd n.val .tierPrefetch x.2 none false)))

/-! ## The end of a copy: of one in flight only, at most four at once (R200) -/

/-- A record whose last map entry went while a copy was in progress is freed once that copy ends (R201). -/
def State.dropFreed (s : State) (r : Nat) : State :=
  match s.page r with
  | some p => if p.share = 0 then s.freeRecord r p else s
  | none => s

/-- Jobs that awaited the promotion of a record. -/
def State.awaiting (s : State) (r : Nat) : List Job := s.mb.jobs.filter (fun j => j.awaits.contains r)

/-- A command whose page came goes on. -/
def State.jobGo (s : State) (j : Job) : State := if j.kind = .stepWait then s.stepJobGo j else s.seqJobGo j

/-- A command one of whose pages did not come (R187, R191, R192). -/
def State.jobFail (s : State) (j : Job) : State :=
  if j.kind = .stepWait then (s.undoPins j.units).fail j.n stRejected else s.seqJobFail j

/-- Take the record off every wait, and go on with the commands that wait no more. -/
def State.releaseWaits (s : State) (r : Nat) : State :=
  let went := s.awaiting r
  let s := { s with mb := { s.mb with jobs := s.mb.jobs.map (fun j => { j with awaits := j.awaits.filter (· != r) }) } }
  went.foldl (fun s j => match s.mb.jobs.find? (fun x => x.n == j.n) with
    | some x => s.jobGo x
    | none => s) s

/-- Cores whose TMV waits for the record. -/
def State.tmvWaiters (s : State) (rec : Nat) : List Nat :=
  (List.range 64).filter (fun c => s.coreLive c && s.waitsFor c rec)

/-- Streams that waited for a page go on: its copy is complete, or it failed (Table 7.6). -/
def State.resumeTmv (s : State) (cs : List Nat) : State :=
  cs.foldl (fun s c => if s.coreLive c then s.engLoop engFuel c 6 else s) s

/-- The copy of a promotion is complete (Table 7.6); it waits while DRAM is closed (R241). -/
def execPromotionComplete (rec : Nat) (s : State) : Host.Outcome State Fault Refusal :=
  .next (match s.page rec with
    | none => s
    | some p =>
      if p.st ≠ 1 || !s.copying.contains rec || s.dram.closed then s
      else match s.copyIn p.home p.frame with
        | none => s
        | some s' =>
          let s' := Page.upd s' rec (fun p => { p with st := 2, dirty := false })
          let s' := ((s'.settleUnits .tierPrefetch rec stOk none).finishTiers.resumeTmv (s.tmvWaiters rec)).releaseWaits rec
          (s'.settle rec).dropFreed rec)

def execPromotionError (rec : Nat) (s : State) : Host.Outcome State Fault Refusal :=
  .next (match s.page rec with
    | none => s
    | some p =>
      if p.st ≠ 1 || !s.copying.contains rec then s
      else
        let ws := s.tmvWaiters rec
        let s := Page.upd (s.logCp 0x13 rec (p.home * 4096)) rec (fun p => { p with st := 0, frame := 0, evpend := false })
        let s := ((s.settleUnits .tierPrefetch rec stRejected none).settleUnits .tierEvict rec stOk (some true)).finishTiers
        (((s.awaiting rec).foldl State.jobFail s).resumeTmv ws).dropFreed rec)

/-- A prefetch that waited for a forced eviction promotes the page from HOST (Table 7.6); of a page that no region maps any
more it ends as one of an unmapped page (log 96). -/
def State.promoteAgain (s : State) (r : Nat) : State :=
  match s.page r with
  | none => s
  | some p =>
    if !p.prefetch then s
    else if p.share = 0 then (s.settleUnits .tierPrefetch r stNotInState none).finishTiers
    else match (Page.upd s r (fun p => { p with prefetch := false })).promote r with
      | (s, true) => s
      | (s, false) => (s.settleUnits .tierPrefetch r stNoResource none).finishTiers

/-- The copy of an eviction is complete (Table 7.6); it waits while DRAM is closed (R241). -/
def execEvictionComplete (rec : Nat) (s : State) : Host.Outcome State Fault Refusal :=
  .next (match s.page rec with
    | none => s
    | some p =>
      if p.st ≠ 3 || !s.copying.contains rec || s.dram.closed then s
      else match s.copyOut p.frame p.home with
        | none => s
        | some s =>
          let s := s.toHost rec
          let s := (s.settleUnits .tierEvict rec stOk none).finishTiers
          (s.promoteAgain rec).dropFreed rec)

def execEvictionError (rec : Nat) (s : State) : Host.Outcome State Fault Refusal :=
  .next (match s.page rec with
    | none => s
    | some p =>
      if p.st ≠ 3 || !s.copying.contains rec then s
      else
        let s := Page.upd (s.logCp 0x13 rec (p.home * 4096)) rec (fun p =>
          { p with st := 2, dirty := true, evpend := false, forced := false, prefetch := false })
        let s := ((s.settleUnits .tierEvict rec stRejected none).settleUnits .tierPrefetch rec stOk none).finishTiers
        s.dropFreed rec)

/-- The last TMV write in flight to a page completed (R196): a frame that it kept is free (R197). -/
def execLastWriteDone (rec : Nat) (s : State) : Host.Outcome State Fault Refusal :=
  .next (
    let s := { s with kv := { s.kv with draining := s.kv.draining.filter (fun e => e.1 != rec) } }
    match s.page rec with
    | none => s
    | some p => if p.inflight = 0 then s else (Page.upd s rec (fun p => { p with inflight := 0 })).settle rec)

/-- Is a job a forced eviction whose limit has passed with the page's outcome still open (R199). -/
def Job.late (j : Job) (r now : Nat) : Bool :=
  j.kind == .tierEvict && j.deadline.any (fun d => decide (d ≤ now)) && j.units.any (fun u => u.1 == r + 1 && u.2.isNone)

/-- A forced eviction meets its time limit: TIMEOUT, EVPEND cleared (R199). One still pending goes on to its own limit. -/
def execForcedEvictionTimeout (rec t : Nat) (s : State) : Host.Outcome State Fault Refusal :=
  .next (
    let s := s.at t
    if s.mb.jobs.any (fun j => j.late rec s.now) then
      let jobs := s.mb.jobs.map (fun j =>
        if j.late rec s.now then
          { j with units := j.units.map (fun u => if u.1 = rec + 1 && u.2.isNone then (u.1, some stTimeout) else u) }
        else j)
      let still := jobs.any (fun j => j.kind == .tierEvict && j.args.getD 0 0 == 1 && j.units.any (fun u => u.1 == rec + 1 && u.2.isNone))
      let s := { s with mb := { s.mb with jobs := jobs } }
      (Page.upd s rec (fun p => { p with evpend := false, forced := p.forced && still })).finishTiers
    else s)

end Sys2Proof.Machine
end

