-- ==== Sys2Proof/Machine/CarillonCmds.lean ====
section
/-!
DEFINITION. The carillon commands (R291 to R313, R438) and their notices: forming, leaving, the plane switch and the
shrinking re-formation, and the lateness report.
-/
namespace Sys2Proof.Machine

/-! ## The payload (R292 to R294) and the plan's checks (R317) -/

/-- Bytes of the payload that begins a byte string, by its own fields. -/
def carPayloadLen (bs : List Byte) : Nat :=
  let d := words64 (bs.take 64)
  let r : CarRec := ⟨d, [], [], [], []⟩
  64 + 8 * r.count + roundUp (2 * r.sw) 8 + fld (d.getD 5 0) 63 32

def ringBytes (r : CarRec) : List Byte := r.ring.flatMap (natLe 2) ++ List.replicate (roundUp (2 * r.sw) 8 - 2 * r.sw) 0#8

/-- The payload of a record, as it is mirrored to the twin. -/
def CarRec.payload (r : CarRec) : List Byte := bytes64 r.desc ++ bytes64 r.members ++ ringBytes r ++ r.plan

/-- The carillon digest (R296). -/
def CarRec.digestOf (r : CarRec) : List Byte :=
  shake256 32 (natLe 8 (r.desc.getD 0 0) ++ natLe 4 r.cid ++ natLe 8 (r.desc.getD 2 0) ++ bytes64 r.members ++ ringBytes r ++ r.plan)

/-- One torus hop apart. -/
def Torus.hop (t : Torus) (a b : Nat × Nat × Nat) : Bool :=
  torusPorts.any (fun p => ({ t with own := a } : Torus).neighbour p == b) && a != b

/-- Does the parent chain of a member reach a root within n steps. -/
def reachesRoot (p : List Byte) (m t : Nat) : Nat → Nat → Bool
  | 0, _ => false
  | n + 1, k => treeIsRoot p m t k || reachesRoot p m t n (treeEntry p m t k).1

def planOpBad (p : List Byte) (i : Nat) : Bool :=
  let o := planOpOf p i
  o.rsv != 0 || decide (planNtree p ≤ o.tree) || decide (4 < o.kind) || o.ch == 0 || decide (16384 < o.ch) ||
  o.len == 0 || decide (4194304 < o.len) || (o.kind == 4 && !o.all) || o.ch % kindWire o.kind != 0

def treeBad (r : CarRec) (t : Torus) (i : Nat) : Bool :=
  let p := r.plan
  let m := r.count
  let ax := treeAx p m i
  let ms := List.range m
  let pad := (p.drop (treeOff p m i + 8 + 4 * m)).take (roundUp (4 * m) 8 - 4 * m)
  fld (leNat ((p.drop (treeOff p m i)).take 8)) 63 2 != 0 || ax == 3 || pad.any (· != 0#8) ||
  ms.any (fun k =>
    let e := treeEntry p m i k
    let w := leNat ((p.drop (treeOff p m i + 8 + 4 * k)).take 4)
    let g := r.group ax k
    fld w 15 3 != 0 || (g.filter (treeIsRoot p m i)).length != 1 ||
    (if e.1 = 0xFFFF then e.2 != 0
     else e.2 == 0 || decide (5 < e.2) || !g.contains e.1 || !t.hop (r.coord k) (r.coord e.1) || !reachesRoot p m i m k) ||
    !distinct ((treeKids p m i k).map Prod.snd))

/-- Does CARILLON_FORM refuse the plan (R317). -/
def planBad (r : CarRec) (t : Torus) : Bool :=
  let p := r.plan
  let n := planNops p
  let nt := planNtree p
  let need := 14 * ((List.range n).map (fun i => let o := planOpOf p i; o.chunks * o.bufSize)).foldl (· + ·) 0
  decide (p.length < 64) || n == 0 || decide (4096 < n) || nt == 0 || decide (8 < nt) ||
  p.length != 64 + 32 * n + nt * treeBytes r.count || fld (wordOf p 0) 31 24 != 0 || fld (wordOf p 0) 15 0 != 1 ||
  [3, 4, 5, 6, 7].any (fun i => wordOf p i != 0) || (List.range n).any (planOpBad p) || (List.range nt).any (treeBad r t) ||
  planSpillBase p % pageBytes != 0 || decide (dramBytes < planSpillBase p + planSpillSize p) || decide (planSpillSize p < need)

/-! ## The checks of Table 12.3 -/

/-- May the pair (L, N) be applied: L within the last 65,536 beats and not in the future (R238). -/
def State.beatPairOk (s : State) (l : Nat) : Bool := decide (l ≤ s.beatNo) && decide (s.beatNo - l < 65536)

/-- Apply the pair: N − L is added to the beat number (R238). -/
def State.shiftBeat (s : State) (l n : Nat) : State :=
  { s with beat := { s.beat with num := (s.beat.num + (n + 2 ^ 48 - l)) % 2 ^ 48 } }

/-- Reserved bits of a payload; `bs` begins with it. -/
def carReserved (bs : List Byte) (r : CarRec) : Bool :=
  let w (i : Nat) : Nat := r.desc.getD i 0
  fld (w 1) 15 0 != 0 || fld (w 2) 31 0 != 0 || fld (w 3) 63 48 != 0 || fld (w 4) 63 48 != 0 || fld (w 5) 31 0 != 0 ||
  w 6 != 0 || w 7 != 0 || r.members.any (fun x => fld x 63 32 != 0 || fld x 30 24 != 0) ||
  ((bs.drop (64 + 8 * r.count + 2 * r.sw)).take (roundUp (2 * r.sw) 8 - 2 * r.sw)).any (· != 0#8)

/-- A payload as far as its reserved fields can be read, whatever its length. -/
def carLoose (bs : List Byte) : CarRec :=
  let d := words64 (bs.take 64)
  let r : CarRec := ⟨d, [], [], [], []⟩
  { r with members := words64 ((bs.drop 64).take (8 * r.count)) }

/-- The BAD_ARG causes of Table 12.3 that are not the form's; the lowest epoch base allowed is an argument, exact for SHRINK. -/
def State.carBad (s : State) (bs : List Byte) (r : CarRec) (t : Torus) (base : Nat → Bool) : Bool :=
  let coords := (List.range r.count).map r.coord
  let self := r.members.getD r.self 0
  carReserved bs r || decide (r.count ≤ r.self) || (List.range r.sw).any (fun q => !r.ring.contains q) ||
  (List.range r.count).any (fun i => (coords.drop (i + 1)).contains (r.coord i)) ||
  coords.any (fun c => decide (t.size.1 ≤ c.1) || decide (t.size.2.1 ≤ c.2.1) || decide (t.size.2.2 ≤ c.2.2)) ||
  r.coord r.self != t.own || bitAt self 31 != (s.twin.st != 0) || !base (r.desc.getD 0 0) ||
  r.desc.getD 0 0 == reformEpoch || !s.beatPairOk (r.desc.getD 3 0) || planBad r t

/-- Does the loaded pattern declare a T, S or stage index that differs from the record's (Table 12.3). -/
def State.patternOther (s : State) (r : CarRec) : Bool :=
  s.pat.st != .none && (patTsize s.pat.image != r.tsize || patSsize s.pat.image != r.ssize || patStage s.pat.image != (r.axes r.self).2.1)

/-- The REJECTED causes of Table 12.3. -/
def State.carRejected (s : State) (r : CarRec) : Bool :=
  let (_, _, q) := r.axes r.self
  s.patternOther r || s.openSeqs.any (fun x => let m := geomOf (s.hdr x); m.sw != r.sw || m.sidx != q)

/-! ## The exchange (R296 to R298) -/

/-- Time limit of a forming command in ns: FLAGS.CMD in units of 100 ms, 0 for 1 s (R438). -/
def Mbox.formLimit (b : Mbox) : Nat := (if fld b.flags 15 8 = 0 then 10 else fld b.flags 15 8) * 100000000

/-- Send FORM to the lead and wait; args hold the stage of a re-formation. -/
def State.beginForm (s : State) (n : Nat) (kind : JobKind) (units : List (Nat × Option Nat)) (r : CarRec) : State :=
  let r := { r with digest := r.digestOf }
  let j : Job := ⟨n, kind, units, some (s.now + (s.box n).formLimit), [], [0]⟩
  let s : State := { s with
    car := { s.car with forming := some r }, mb := { s.mb with jobs := s.mb.jobs ++ [j] } }
  s.notice "FORM" 0 ([r.self, r.cid] ++ words64 r.digest)

/-- The job of a forming command that still exchanges. -/
def State.formJob (s : State) : Option Job :=
  s.mb.jobs.find? (fun j => (j.kind == .form || j.kind == .planeSwitch || j.kind == .shrink) && j.args.getD 0 0 == 0)

/-- CARILLON_FORM: a reserved field is met before the state (R415, R427), then Table 12.3. -/
def execCarillonForm (n : Fin 64) (t : Nat) (s : State) : Host.Outcome State Fault Refusal :=
  .next ((s.at t).serve n.val 0x70 [] (fun s bs =>
    if carReserved bs (carLoose bs) then s.fail n.val stBadArg
    else match s.torus with
    | none => s.fail n.val stNotInState
    | some t =>
      if s.car.member || s.running then s.fail n.val stNotInState
      else match carRecOf bs with
        | none => s.fail n.val stBadArg
        | some r =>
          if s.carBad bs r t (fun b => decide (s.ep.ranMax ≤ b)) then s.fail n.val stBadArg
          else if s.carRejected r then s.fail n.val stRejected
          else s.beginForm n.val .form [] r))

/-- Send a notice to every member of a record. -/
def State.noticeRec (s : State) (r : CarRec) (name : String) (args : List Nat) : State :=
  (List.range r.count).foldl (fun s m => s.notice name m args) s

/-- A FORM notice at the lead; with one of every member it answers FORMED or FORM_FAIL (R296). -/
def execFormNotice (m cid : Nat) (digest : List Byte) (s : State) : Host.Outcome State Fault Refusal :=
  .next (
    let forms := s.car.forms.filter (fun f => f.1 != m) ++ [(m, cid, digest)]
    let s : State := { s with car := { s.car with forms := forms } }
    match s.car.forming with
    | none => s
    | some r =>
      if r.self ≠ 0 then { s with car := { s.car with forms := [] } }
      else
        let of (i : Nat) : Option (Nat × List Byte) := (forms.find? (fun f => f.1 == i)).map Prod.snd
        if (List.range r.count).any (fun i => (of i).isNone) then s
        else
          let s : State := { s with car := { s.car with forms := [] } }
          match (List.range r.count).find? (fun i => of i != some (r.cid, r.digest)) with
          | some i => s.noticeRec r "FORM_FAIL" [r.cid, i]
          | none => s.noticeRec r "FORMED" [r.cid])

/-- The lateness counters cleared (R297, R310). -/
def State.clearLate (s : State) : State :=
  { s with car := { s.car with late := Late.init, winFrom := s.beatNo, winLens := [], windows := [], report := none } }

/-- The actions of R297; `pair` and `base` say whether the beat pair and EPOCH_BASE apply. -/
def State.becomeMember (s : State) (r : CarRec) (pair base : Bool) : State :=
  let s := if pair then s.shiftBeat (fld (r.desc.getD 3 0) 47 0) (fld (r.desc.getD 4 0) 47 0) else s
  let s : State := { s with
    car := { s.car with
      member := true, rec? := some r, forming := none, threshold := s.policy 0x0030, haltedBy := [], waitStop := none },
    ep := { s.ep with next := if base then r.desc.getD 0 0 else s.ep.next } }
  let s := s.clearLate
  s.tellTwin "CARILLON" [] r.payload

/-! ## Resolution and the end of a re-formation -/

/-- The member's report to the lead for the resolution that ends a re-formation (R340). -/
def State.reportQuiet (s : State) : State :=
  s.notice "QUIET" 0 ([s.selfIdx, s.ep.next, 0, 0, s.ep.lce] ++ (match s.ep.prep with | some (e, _) => [e] | none => []))

/-- The re-formation in progress beyond its exchange. -/
def State.reformJob (s : State) : Option Job :=
  s.mb.jobs.find? (fun j => (j.kind == .planeSwitch || j.kind == .shrink) && j.args.getD 0 0 == 1)

def State.updJob (s : State) (n : Nat) (f : Job → Job) : State :=
  { s with mb := { s.mb with jobs := s.mb.jobs.map (fun j => if j.n == n then f j else j) } }

/-- Give units that have received every byte due their outcome, and complete the re-formation when every unit has one,
the lead has resolved and no prepared epoch is left (R310 to R312, R340). Args: stage, resolved, bytes due by unit. -/
def State.finishReform (s : State) : State :=
  match s.reformJob with
  | none => s
  | some j =>
    let due (i : Nat) : Nat := j.args.getD (2 + i) 0
    let us := j.units.mapIdx (fun i u =>
      if u.2.isNone && due i ≤ Table.get 0 s.car.copiesDue (u.1 - 1) then (u.1, some stOk) else u)
    let s := s.updJob j.n (fun j => { j with units := us })
    if us.all (fun u => u.2.isSome) && j.args.getD 1 0 == 1 && s.ep.st != .prepared then
      let s := (s.logCar 0x64 (if j.kind = .shrink then 1 else 0)).clearLate
      let s : State := { s with car := { s.car with copiesDue := [] } }
      s.replyUnits j.n (us.map (fun u => u.2.getD stOk)) []
    else s

/-- Enter the last stage of a re-formation: report to the lead; only the lead resolves. -/
def State.enterReform (s : State) (n : Nat) (units : List (Nat × Option Nat)) (dues : List Nat) : State :=
  ((s.updJob n (fun j => { j with units := units, args := [1, if s.isLead then 0 else 1] ++ dues })).reportQuiet).finishReform

/-! ## SHRINK (R312) -/

/-- Old member index of a new one, by coordinate. -/
def CarRec.oldOf (old new : CarRec) (m : Nat) : Option Nat := (List.range old.count).find? (fun i => old.coord i == new.coord m)

/-- SHRINK's own BAD_ARG causes. -/
def shrinkBad (old new : CarRec) : Bool :=
  old.tsize != new.tsize || old.ssize != new.ssize || decide (old.sw ≤ new.sw) ||
  (List.range new.count).any (fun m => match old.oldOf new m with
    | none => true
    | some i => (old.axes i).1 != (new.axes m).1 || (old.axes i).2.1 != (new.axes m).2.1)

/-- New sequence index of an old one; none for a removed one. -/
def newIndex (old new : CarRec) (q : Nat) : Option Nat :=
  let (t, st, _) := new.axes new.self
  (List.range new.sw).find? (fun x => old.oldOf new (new.memberAt t st x) == some (old.memberAt t st q))

/-- A byte of a region as a re-formation reads it: from HOME for a page in HOST or PROMOTING, whatever TMODE (log 106). -/
def State.reformByte (s : State) (seq off : Nat) : RByte :=
  let home := match s.pageOf seq (off / pageBytes) with
    | some r => match s.page r with
      | some p => if p.st = 0 || p.st = 1 then some (p.home * 4096 + off % pageBytes) else none
      | none => none
    | none => none
  match home with
  | some h => s.hostRByte h none
  | none => s.spaceByte 0 4 0 (seq * 2 ^ 40 + off)

/-- Bring the page of a record to DEVICE for a re-formation's write into the own region (log 106): 0, or why it cannot be. -/
def State.pageHere (s : State) (r : Nat) : State × Nat :=
  let fill (s : State) : State × Nat := match s.page r with
    | none => (s, stRejected)
    | some p => match s.copyIn p.home p.frame with
      | some s => (Page.upd s r (fun p => { p with st := 2, dirty := false }), 0)
      | none => (Page.upd s r (fun p => { p with st := 0, frame := 0 }), stRejected)
  match (s.page r).map Page.st with
  | some 0 => match s.promote r with
    | (s, true) => fill s
    | (s, false) => (s, stNoResource)
  | some 1 => if s.copying.contains r then fill s else (s, 0)
  | _ => (s, 0)

/-- Bring the mapped pages of a range of the own region to DEVICE. -/
def State.pagesHere (s : State) (seq off n : Nat) : State × Nat :=
  ((List.range ((off + n + pageBytes - 1) / pageBytes - off / pageBytes)).map (off / pageBytes + ·)).foldl
    (fun (a : State × Nat) p => if a.2 ≠ 0 then a else match a.1.pageOf seq p with
      | some r => a.1.pageHere r
      | none => a) (s, 0)

/-- A block of a grain that a re-formation reads: layer, KV head, cells at region offsets, and whether a read failed. -/
structure Block where
  layer : Nat
  head : Nat
  bytes : List (Byte × Bool)
  failed : Bool
  deriving DecidableEq, Repr

/-- Copy one block of a grain to region offset `off` of member dest, as re-formation copies (R302), each of at most 65,536
bytes. -/
def State.sendBlock (s : State) (r : CarRec) (seq off dest : Nat) (b : List (Byte × Bool)) : State :=
  let d (a : Nat) : MsgDesc := ⟨a, 4, 0, 0, r.self, false, false, 0, 0, 0, reformEpoch⟩
  (runsOf (b.mapIdx (fun i x => (seq * 2 ^ 40 + off + i, x.1, x.2)))).foldl (fun s c =>
    (msgFlits 2 (r.coord dest) (d (c.headD (0, 0, false)).1) c).foldl (fun s f => s.routeFlit none f) s) s

/-- Move one grain of a sequence: to the own region, or to its new owner (R312); 0, or why a block cannot be copied. -/
def State.moveGrain (s : State) (r : CarRec) (seq : Nat) (m : Geom) (k : Nat) (blocks : List Block) : State × Nat :=
  let (t, st, q) := r.axes r.self
  let dest := m.owner k
  if blocks.any Block.failed then (s, stRejected)
  else blocks.foldl (fun (a : State × Nat) b =>
    if a.2 ≠ 0 then a
    else
      let off := m.blockOff b.layer b.head (m.local_ k)
      if dest = q then match a.1.pagesHere seq off b.bytes.length with
        | (s, 0) => s.regionWrite seq off (b.bytes.mapIdx (fun i x => (seq * 2 ^ 40 + off + i, x.1, x.2)))
        | e => e
      else (a.1.sendBlock r seq off (r.memberAt t st dest) b.bytes, 0)) (s, 0)

/-- One open sequence of a SHRINK: truncate, re-shard, move; its outcome, none while copies are due, and the bytes due. -/
def State.shrinkSeq (s : State) (old new : CarRec) (run : Option Nat) (seq : Nat) : State × Option Nat × Nat :=
  let h := s.hdr seq
  let m0 := geomOf h
  let l := s.lens seq
  let held := ceilDiv l.committed m0.g
  let lost := (List.range held).find? (fun k => (newIndex old new (m0.owner k)).isNone)
  let c1 := match lost with | some k => k * m0.g | none => l.committed
  let (_, _, q) := new.axes new.self
  let (_, _, q0) := old.axes old.self
  let q1 := place (run.getD m0.run) 32 + place q 16 + new.sw
  let m1 : Geom := { m0 with sw := new.sw, sidx := q, run := run.getD m0.run }
  let fits := (List.range (ceilDiv l.maxlen m1.g)).all (fun k => m1.owner k != q || decide (m1.local_ k < m1.maxg))
  let c := if fits then c1 else 0
  let grains := List.range (ceilDiv c m0.g)
  let blocks (k : Nat) : List Block :=
    (List.range m0.layers).flatMap (fun ly => (List.range m0.heads).map (fun hd =>
      let bs := (List.range (m0.kblk + m0.vblk)).map (fun i => s.reformByte seq (m0.blockOff ly hd (m0.local_ k) + i))
      ⟨ly, hd, bs.map (fun b => (b.val, b.poison)), bs.any (fun b => b.fault != 0)⟩))
  let mine := (grains.filter (fun k => m0.owner k == q0 && (m1.owner k != q || m1.local_ k != m0.local_ k))).map (fun k => (k, blocks k))
  let due := (grains.filter (fun k => m0.owner k != q0 && m1.owner k == q)).length * m0.layers * m0.heads * (m0.kblk + m0.vblk)
  let s := (s.setHdr seq (h.set 1 q1)).bumpGen seq
  let s := s.setLens seq { l with committed := c, prov := 0 }
  let (s, st) := mine.foldl (fun (a : State × Nat) e =>
    if a.2 ≠ 0 then a
    else match a.1.moveGrain new seq m1 e.1 e.2 with
      | (s, 0) => (s, 0)
      | (s, st) => (s.setLens seq { s.lens seq with committed := min (s.lens seq).committed (e.1 * m1.g) }, st)) (s, 0)
  let s := (s.truncated l.committed (s.lens seq).committed).tellSeq seq
  (s, if !fits then some stNoResource else if st ≠ 0 then some st else none, due)

/-- The work of SHRINK after FORMED, sequence by sequence in ascending order. -/
def State.shrinkAll (s : State) (j : Job) (old new : CarRec) : State :=
  let runs := (j.args.drop 1).map (fun w => (fld w 15 0, fld w 31 16))
  let x := s.openSeqs.foldl (fun (a : State × List (Nat × Option Nat) × List Nat) q =>
    let y := a.1.shrinkSeq old new ((runs.find? (fun e => e.1 == q)).map Prod.snd) q
    let got := (j.units.find? (fun u => u.1 == q + 1)).bind Prod.snd
    (y.1, a.2.1 ++ [(q + 1, match y.2.1 with | some c => some c | none => got)], a.2.2 ++ [y.2.2])) (s, [], [])
  x.1.enterReform j.n x.2.1 x.2.2

/-- Units of a re-formation: the open sequences (Table 14.9). -/
def State.reformUnits (s : State) : List (Nat × Option Nat) := s.openSeqs.map (fun q => (q + 1, none))

/-- CARILLON_REFORM with SHRINK (R312, R438): a reserved field is met before the state. R295's check of the region headers is
none of SHRINK's: it is SHRINK that gives them SWIDTH and SIDX (log 107). -/
def execShrink (n : Fin 64) (t : Nat) (s : State) : Host.Outcome State Fault Refusal :=
  .next ((s.at t).serve n.val 0x71 [bits 47 32 + 1] (fun s bs =>
    let nrun := fld (argW bs 0) 47 32
    let pay := bs.drop 8
    let len := carPayloadLen pay
    let runs := words64 (pay.drop len)
    if !bitAt (argW bs 0) 0 then s
    else if carReserved pay (carLoose pay) || runs.any (fun w => fld w 63 32 != 0) then s.fail n.val stBadArg
    else if s.running || !s.ep.quiet then s.fail n.val stNotInState
    else match s.car.rec?, s.torus with
      | some old, some t =>
        if bs.length ≠ 8 + len + 8 * nrun then s.fail n.val stBadArg
        else match carRecOf (pay.take len) with
          | none => s.fail n.val stBadArg
          | some new =>
            if s.carBad pay new t (fun b => b == s.ep.next) || shrinkBad old new || s.patternOther new ||
                runs.any (fun w => !s.openSeqs.contains (fld w 15 0) || fld w 31 16 == 0) ||
                !distinct (runs.map (fun w => fld w 15 0)) then s.fail n.val stBadArg
            else
              let s := s.beginForm n.val .shrink s.reformUnits new
              ({ s with car := { s.car with copiesDue := [] } }).updJob n.val (fun j => { j with args := 0 :: runs })
      | _, _ => s.fail n.val stNotInState))

/-! ## PLANE_SWITCH (R311, R365) -/

/-- The standby takes its twin's place: role, NEXT_EPOCH, the prepared epoch that it holds for its twin. -/
def State.takeRole (s : State) : State :=
  let st := match s.twin.prepOf with | some _ => EpSt.prepared | none => s.ep.st
  { s with
    twin := { s.twin with role := 1, valid := true, roleSent := some s.now, prepOf := none },
    ep := { s.ep with
      next := s.twin.nextEpoch, st := st, prep := s.twin.prepOf, prepAt := s.now,
      seqs := match s.twin.prepOf with | some (_, cs) => cs | none => s.ep.seqs } }

def execPlaneSwitch (n : Fin 64) (t : Nat) (s : State) : Host.Outcome State Fault Refusal :=
  .next ((s.at t).serve n.val 0x71 [bits 47 32 + 1] (fun s bs =>
    if bitAt (argW bs 0) 0 then s
    else if s.running || !s.ep.quiet || !s.twin.standby then s.fail n.val stNotInState
    else match s.car.rec? with
      | none => s.fail n.val stNotInState
      | some r =>
        if bs.length ≠ 8 || argW bs 0 ≠ 0 then s.fail n.val stBadArg
        else
          let faulty := s.twin.knell.any (fun k => k.2 == r.self)
          let s := (s.emit (.ptNotice "ROLE" [] [])).takeRole
          let s := s.logCp 0x86 0 s.twin.word
          let s := if faulty then s.stale 6 true else s
          let s : State := { s with twin := { s.twin with knell := none } }
          s.beginForm n.val .planeSwitch s.reformUnits r))

/-- A ROLE notice over PT (R365): a former active device becomes STANDBY, stops being a member and answers; on the device
that sent one it is the answer. -/
def execRoleNotice (s : State) : Host.Outcome State Fault Refusal :=
  .next (
    if s.twin.roleSent.isSome then { s with twin := { s.twin with roleSent := none } }
    else if s.twin.st ≠ 0 && s.twin.mode = 0 && s.twin.role = 1 then
      let s := { s with
        twin := { s.twin with role := 2, valid := false, nextEpoch := s.ep.next },
        car := { s.car with member := false, haltedBy := [], waitStop := none } }
      (s.logCp 0x86 0 s.twin.word).emit (.ptNotice "ROLE" [] [])
    else s)

/-- No answer to the ROLE notice within 100 µs: the switch is kept, the pair is STALE (R365). -/
def execRoleTimeout (t : Nat) (s : State) : Host.Outcome State Fault Refusal :=
  .next (
    let s := s.at t
    match s.twin.roleSent with
    | none => s
    | some t0 =>
      if s.now - t0 < 100000 then s
      else
        let s : State := { s with twin := { s.twin with roleSent := none } }
        if s.twin.st = 1 then s.stale 6 true else s)

/-! ## FORMED, FORM_FAIL, FORM_TIMEOUT -/

/-- FORMED for the record that the device forms (R297): the command goes on by its kind. -/
def execFormed (cid : Nat) (s : State) : Host.Outcome State Fault Refusal :=
  .next (match s.formJob, s.car.forming with
    | some j, some r =>
      if r.cid ≠ cid then s
      else match j.kind with
        | .form =>
          let s := s.becomeMember r true true
          (s.logCar 0x60 0).reply j.n stOk 0 r.digest 1
        | .planeSwitch =>
          let s := (s.becomeMember r false false).logCar 0x60 0
          s.enterReform j.n (j.units.map (fun u => (u.1, some stOk))) []
        | _ => match s.car.rec? with
          | some old => (s.becomeMember r true true).shrinkAll j old r
          | none => s
    | _, _ => s)

/-- End a forming command without success; each unit of a re-formation gets the status (R349). -/
def State.endForm (s : State) (j : Job) (code d1 : Nat) : State :=
  let cid := (s.car.forming.map CarRec.cid).getD 0
  let s : State := { s with car := { s.car with forming := none, forms := [] } }
  let s := s.logCp 0x61 cid d1
  if j.units.isEmpty then s.reply j.n code 0 [] 0 else s.replyUnits j.n (j.units.map (fun _ => code)) []

def execFormFail (cid m : Nat) (s : State) : Host.Outcome State Fault Refusal :=
  .next (match s.formJob, s.car.forming with
    | some j, some r => if r.cid ≠ cid then s else s.endForm j stRejected m
    | _, _ => s)

/-- Neither FORMED nor FORM_FAIL within the time limit (R298). -/
def execFormTimeout (t : Nat) (s : State) : Host.Outcome State Fault Refusal :=
  .next (
    let s := s.at t
    match s.formJob with
    | some j => if j.deadline.any (fun d => decide (d ≤ s.now)) then s.endForm j stTimeout 0xFFFF else s
    | none => s)

/-! ## Leaving (R309) -/

def execCarillonLeave (n : Fin 64) (s : State) : Host.Outcome State Fault Refusal :=
  .next (s.serve n.val 0x72 [] (fun s bs =>
    if s.running || !s.car.member then s.fail n.val stNotInState
    else s.sized n.val bs 0 (fun s =>
      let s := s.notice "LEAVE" 0 [s.selfIdx]
      ({ s with car := { s.car with member := false, haltedBy := [], waitStop := none } }).reply n.val stOk 0 [] 0)))

def execLeaveNotice (m : Nat) (s : State) : Host.Outcome State Fault Refusal :=
  .next (if s.car.member && s.isLead then s.logCar 0x63 m else s)

/-! ## Decisions and QUIET notices, which a re-formation waits for (R339, R340, R344) -/

def execDecision (epoch : Nat) (commit : Bool) (s : State) : Host.Outcome State Fault Refusal :=
  .next (if s.twin.standby then s.standbyDecide epoch commit else (s.takeDecision epoch commit).finishReform)

/-- The latest QUIET notice of every member, with a new one. -/
def State.withQuiet (s : State) (q : Quiet) : List Quiet := s.lead.quiets.filter (fun x => x.member != q.member) ++ [q]

/-- A report for the resolution that ends a re-formation, at the lead (R340). -/
def State.reformQuiet (s : State) (q : Quiet) : State :=
  let qs := s.withQuiet q
  match s.reformJob with
  | some j => if qs.length = s.memberCount && j.args.getD 1 0 == 0 then
      let s := s.resolve qs 0
      let s : State := { s with lead := { s.lead with quiets := [] } }
      (s.updJob j.n (fun j => { j with args := j.args.set 1 1 })).finishReform
    else { s with lead := { s.lead with quiets := qs } }
  | none => { s with lead := { s.lead with quiets := qs } }

/-- A QUIET notice at the lead: the latest of every member counts; with equal sums within 500 µs of its own knell notice it
runs resolution and sends QUIESCED (R344, R346). -/
def State.knellQuiet (s : State) (q : Quiet) (k : KnellMsg) (t0 : Nat) : State :=
  let qs := s.withQuiet q
  let sum (f : Quiet → Nat) : Nat := (qs.map f).foldl (· + ·) 0
  if qs.length = s.memberCount && sum Quiet.orig = sum Quiet.absorbed && s.now - t0 ≤ 500000 then
    let s := s.resolve qs k.cause
    let s : State := { s with lead := { s.lead with quiets := [] } }
    s.noticeAll "QUIESCED" [k.epoch]
  else { s with lead := { s.lead with quiets := qs } }

def execQuietNotice (q : Quiet) (t : Nat) (s : State) : Host.Outcome State Fault Refusal :=
  .next (
    let s := s.at t
    match s.ep.knell with
    | some (k, t0) =>
      if s.ep.quiet || !s.isLead || k.epoch ≠ q.epoch || s.memberCount ≤ q.member then s else s.knellQuiet q k t0
    | none => if s.mb.jobs.any (fun j => j.kind == .planeSwitch || j.kind == .shrink) then s.reformQuiet q else s)

/-! ## Lateness (R306 to R308) -/

/-- The 8 source members with the largest sums, by descending sum: (member, ns). -/
def topSrcs (t : Table Nat) : List (Nat × Nat) :=
  (sortBy (fun (a b : Nat × Nat) => decide (b.2 < a.2) || (a.2 == b.2 && decide (a.1 < b.1))) (t.filter (fun e => e.2 != 0))).take 8

/-- NQ3 words of 8 sources (Table 12.7). -/
def srcWords (l : List (Nat × Nat)) : List Nat :=
  (List.range 8).map (fun i => match l[i]? with
    | some (m, ns) => place (m % 65536) 48 + ns % 2 ^ 48
    | none => place 0xFFFF 48)

/-- Result of LATENESS_READ with WHICH 0 (R438). -/
def Late.words (l : Late) : List Nat :=
  [l.suffer % 2 ^ 64, l.halt % 2 ^ 64] ++ l.ports.flatMap (fun p => [p.1 % 2 ^ 64, p.2.1 % 2 ^ 64, p.2.2 % 2 ^ 64]) ++
  (List.range 256).map (fun i => Table.get 0 l.strokes i % 2 ^ 64) ++ srcWords (topSrcs l.srcs)

/-- Result with WHICH 1: the last report; zeros before the first. -/
def Report.words (r : Report) : List Nat :=
  [place r.recommend 24 + place (min 255 r.count) 16 + r.slowest % 65536, pattern 64 r.net, r.wbeat % 2 ^ 48]

def execLatenessRead (n : Fin 64) (s : State) : Host.Outcome State Fault Refusal :=
  .next (s.serve n.val 0x73 [1] (fun s bs =>
    if !s.car.member || (bitAt (argW bs 0) 0 && !s.isLead) then s.fail n.val stNotInState
    else s.sized n.val bs 8 (fun s =>
      let s := s.settleHalts
      if bitAt (argW bs 0) 0 then s.okWords n.val ((s.car.report.map Report.words).getD [0, 0, 0])
      else s.okWords n.val s.car.late.words)))

/-- Beats of a lateness window (R307). -/
def State.windowBeats (s : State) : Nat := s.policy 0x0040

/-- The end of a lateness window: the record to the lead, the sums from 0, a new LATE_WINDOW in force (R307, R441). -/
def execLatenessWindow (s : State) : Host.Outcome State Fault Refusal :=
  .next (
    if s.car.member && s.windowBeats ≤ s.beatNo - s.car.winFrom then
      let s := s.settleHalts
      let l := s.car.late
      let top := topSrcs l.wsrcs
      let s := s.notice "WINDOW" 0 ([l.wsuffer % 2 ^ 64, l.whalt % 2 ^ 64, s.selfIdx, s.car.winFrom] ++ top.flatMap (fun e => [e.1, e.2]))
      { s with
        car := { s.car with
          winFrom := s.beatNo, winLens := s.car.winLens ++ [(s.car.winFrom, s.windowBeats)],
          late := { l with wsuffer := 0, whalt := 0, wsrcs := [] } },
        pol := { s.pol with
          values := s.pol.late.foldl (fun t e => Table.set none t e.1 (some e.2)) s.pol.values, late := [] } }
    else s)

/-- net(m) over one record of every member, as a signed 64-bit value (R308). -/
def netOf (rs : List WinRec) (m : Nat) : Int :=
  let ns : List Nat := rs.flatMap (fun r => (r.srcs.filter (fun e => e.1 == m)).map Prod.snd)
  let blame : Nat := ns.foldl (· + ·) 0
  let own := (rs.filter (fun r => r.member == m)).foldl (fun (a : Int) (r : WinRec) => a + Int.ofNat r.halt - Int.ofNat r.suffer) 0
  signed 64 (pattern 64 (Int.ofNat blame + own))

/-- Beats of the ended window that began at a beat, LATE_WINDOW as it stood then (R308). -/
def State.endedBeats (s : State) (wbeat : Nat) : Nat :=
  ((s.car.winLens.find? (fun w => w.1 == wbeat)).map Prod.snd).getD s.windowBeats

/-- The lateness report of one window (R308). -/
def State.lateReport (s : State) (rs : List WinRec) (wbeat : Nat) : State :=
  let slow := (List.range s.memberCount).foldl (fun b m => if netOf rs b < netOf rs m then m else b) 0
  let net := netOf rs slow
  let big := decide ((s.policy 0x0042 * s.endedBeats wbeat * s.period : Nat) ≤ net * 100)
  let (c, o) := match s.car.report with
    | some p => if p.slowest = slow then (p.count + 1, if big then p.overs + 1 else 0) else (1, b2n big)
    | none => (1, b2n big)
  let twin := match s.memberRec with | some r => r.twinOf slow | none => false
  let hit := decide (s.policy 0x0041 ≤ o)
  let rep : Report := ⟨slow, c, o, if hit then (if twin then 1 else 2) else 0, net, wbeat⟩
  let s : State := { s with car := { s.car with report := some rep, winLens := s.car.winLens.filter (fun w => w.1 != wbeat) } }
  if hit then ((s.logCp 0x62 s.cid (place rep.recommend 62 + place (slow % 65536) 46 + pattern 46 net)).eventChime) else s

/-- A window record at the lead; the window is computed once every member's is there. -/
def execWindowRecord (r : WinRec) (s : State) : Host.Outcome State Fault Refusal :=
  .next (
    if !s.car.member || !s.isLead || s.memberCount ≤ r.member then s
    else
      let rs := s.car.windows ++ [r]
      let first (m : Nat) : Option WinRec := rs.find? (fun x => x.member == m)
      let ms := List.range s.memberCount
      if ms.all (fun m => (first m).isSome) then
        let now := ms.filterMap first
        let rest := ms.foldl (fun l m => match l.findIdx? (fun x => x.member == m) with
          | some i => l.eraseIdx i
          | none => l) rs
        (({ s with car := { s.car with windows := rest } } : State)).lateReport now ((first 0).map WinRec.wbeat |>.getD 0)
      else { s with car := { s.car with windows := rs } })

/-! ## HALT and RESUME notices (R232) -/

def execHaltNotice (m t : Nat) (s : State) : Host.Outcome State Fault Refusal :=
  .next (
    let s := s.at t
    if !s.car.member || s.memberCount ≤ m then s
    else { s with car := { s.car with
      haltedBy := NatSet.insert s.car.haltedBy m, waitStop := some (s.car.waitStop.getD s.now) } })

def execResumeNotice (m t : Nat) (s : State) : Host.Outcome State Fault Refusal :=
  .next (
    let s := s.at t
    if !s.car.member || !NatSet.has s.car.haltedBy m then s
    else
      let left := NatSet.remove s.car.haltedBy m
      if left.isEmpty then
        { s with car := { s.car with
          haltedBy := [], waitStop := none, pauses := s.car.pauses ++ [(s.car.waitStop.getD s.now, s.now)] } }
      else { s with car := { s.car with haltedBy := left } })

end Sys2Proof.Machine
end

