-- ==== Sys2Proof/Machine/DramRows.lean ====
section
/-!
DEFINITION. DRAM reads and patrol scrub (R253 to R258), row sparing (R259) and the copy of a page out of a retired frame (R260).
`errs` are symbol errors that the read meets: codeword symbol and flipped bits.
-/
namespace Sys2Proof.Machine

/-- Does DRAM answer now: trained, awake, no window open (R241, R264); a row that needs it waits till then (log 121). -/
def State.dramOpen (s : State) : Bool := s.live && s.dram.trained && !s.dram.selfRef && !s.dram.closed

/-- Symbol errors join those that stand in a burst. -/
def State.addErrs (s : State) (burst : Nat) (errs : List (Nat × Nat)) : State :=
  let old := Table.get [] s.dram.errs burst
  let new := errs.foldl (fun (t : Table Nat) e => Table.upd 0 t e.1 (· ^^^ e.2)) old
  { s with dram := { s.dram with errs := Table.set [] s.dram.errs burst new } }

/-- A burst read by a stream completes: its outcome is counted, logged and queued (R253, R259, R267); poison reaches the step
(R228). The stream's own fault is taken by the row that moves its tile. -/
def State.readBurst (s : State) (burst : Nat) : State :=
  let s := if (s.dramOut burst matches .poison) && s.running then s.setPoison else s
  s.dramNote burst

def execDramRead (addr : Nat) (errs : List (Nat × Nat)) (s : State) : Host.Outcome State Fault Refusal :=
  guardUnit (dramOk addr 1 && errsOk errs) (
    if s.dramOpen then (s.addErrs (addr / 128) errs).readBurst (addr / 128) else s)

/-! ## Scrub -/

/-- A burst loses its standing errors: a corrected write-back (R257). -/
def State.writeBack (s : State) (burst : Nat) : State :=
  { s with dram := { s.dram with errs := Table.del s.dram.errs burst, writeback := NatSet.remove s.dram.writeback burst } }

/-- Write a burst poisoned, its data as read (R254, R258). -/
def State.poisonBurst (s : State) (burst : Nat) : State :=
  let m := (List.range 128).foldl (fun m i => m.write (burst * 128 + i) (s.dramByte (burst * 128 + i))) s.dram.bytes
  { s with
    dram := { s.dram with bytes := m, poison := NatSet.insert s.dram.poison burst, errs := Table.del s.dram.errs burst }
    fab := { s.fab with fetch := s.fab.fetch.filter (fun l => l != burst / 8) } }

/-- One read-modify-write of scrub on a burst (R257, R258): CE is written back, UE is written poisoned, logged, and queued
for a rewrite; POISON stays as it is. -/
def State.scrubBurst (s : State) (burst : Nat) : State :=
  let l := dramLoc (burst * 128)
  match s.dramOut burst with
  | .ce _ _ => (s.dramNote burst).writeBack burst
  | .ue =>
    let s := s.count 2 (8 * l.stack + 2) 1
    let s := ((s.poisonBurst burst).logEvent 3 l.stack 0x42 (l.chan * 32 + l.bank) (burst * 128)).spareRow l
    { s with dram := { s.dram with rewrite := NatSet.insert s.dram.rewrite burst } }
  | _ => { s with dram := { s.dram with writeback := NatSet.remove s.dram.writeback burst } }

/-- A scrub read of a burst that patrol scrub has reached, or that waits for its write-back (R256, R257, log 123). -/
def execScrubRead (addr : Nat) (errs : List (Nat × Nat)) (s : State) : Host.Outcome State Fault Refusal :=
  guardUnit (dramOk addr 1 && errsOk errs) (
    let b := addr / 128
    if s.dramOpen && (NatSet.has s.dram.scrubDue b || NatSet.has s.dram.writeback b) then
      let s := (s.addErrs b errs).scrubBurst b
      { s with dram := { s.dram with scrubDue := NatSet.remove s.dram.scrubDue b } }
    else s)

/-! ## Row sparing -/

/-- The sixteen bursts of a row (R251). -/
def DramLoc.bursts (l : DramLoc) : List Nat :=
  [0, 1].flatMap (fun half =>
    let g := (l.bank + 32 * (2 * l.row + half)) * 768 + l.chan * 24 + l.stack
    (List.range 8).map (fun b => g * 8 + b))

/-- One burst through the copy of its row: CE is corrected, UE becomes poisoned (R259). -/
def State.copyBurst (s : State) (burst : Nat) : State :=
  match s.dramOut burst with
  | .ce _ _ => s.writeBack burst
  | .ue => s.poisonBurst burst
  | _ => s

/-- The row copy ends: the row is redirected and recorded (R259, R460). A bank or a map that has no room left by then retires
the row's frames (R260, R461). -/
def State.redirectRow (s : State) (l : DramLoc) : State :=
  let used := Table.get 0 s.dram.spareUsed l.bankKey
  let s := { s with dram := { s.dram with copying := NatSet.remove s.dram.copying l.rowKey } }
  if 16 ≤ used || s.spareMapFull then s.spareRow l
  else
    let s := l.bursts.foldl State.copyBurst s
    let s := { s with
      dram := { s.dram with
        spareUsed := Table.set 0 s.dram.spareUsed l.bankKey (used + 1),
        ceBeats := Table.set [] s.dram.ceBeats l.rowKey [], ceAt := Table.set [] s.dram.ceAt l.rowKey [] }
      img := { s.img with spareMap := s.img.spareMap ++ [(l.chanKey, l.bank, l.row, used)] } }
    (s.logEvent 3 l.stack 0x43 (l.chan * 32 + l.bank) l.row).count 2 (8 * l.stack + 3) 1

def execRowSpared (stack chan bank row : Nat) (s : State) : Host.Outcome State Fault Refusal :=
  guardUnit (rowOk stack chan bank row) (
    let l : DramLoc := ⟨stack, chan, bank, row⟩
    if s.dramOpen && NatSet.has s.dram.copying l.rowKey then s.redirectRow l else s)

/-! ## Frames retired under a page -/

/-- A retired frame still holds a page: logged from the stack of the row for which it was retired, with that row (R260, R267); a
frame restored from bank J has its first row named. -/
def State.retirePending (s : State) (frame : Nat) : State :=
  let l := dramLoc (frame * pageBytes)
  let key := match Table.get 0 s.dram.retiredBy frame with
    | 0 => l.rowKey
    | k + 1 => k
  s.logEvent 3 (key / 4194304) 0x45 (key / 4096 % 1024) (key % 4096)

/-- The page moves to a free frame, is evicted to its HOME, or stays (R260). -/
def State.leaveFrame (s : State) (rec : Nat) (p : Page) : State :=
  match s.freeFrame with
  | some f => Page.upd (s.copyFrame p.frame f) rec (fun p => { p with frame := f })
  | none =>
    if p.home = 0 || p.pin ≠ 0 then s.retirePending p.frame
    else
      let gone (s : State) : State :=
        ((Page.upd s rec (fun p => { p with st := 0, dirty := false, frame := 0, evpend := false })).settleUnits .tierEvict rec stOk
          none).finishTiers
      if !p.dirty then gone s
      else match s.copyOut p.frame p.home with
        | some s => gone s
        | none => (s.logCp 0x13 rec (p.home * 4096)).retirePending p.frame

def execFrameRetireCopy (rec : Nat) (s : State) : Host.Outcome State Fault Refusal :=
  guardUnit (recOk rec) (
    match s.page rec with
    | some p => if s.dramOpen && !s.running && p.st == 2 && s.frameRetired p.frame then s.leaveFrame rec p else s
    | none => s)

end Sys2Proof.Machine
end

