-- ==== Sys2Proof/Machine/EngineOps.lean ====
section
/-!
DEFINITION. The rows of the engine ops and of TILE_START: each starts its engine's next op, or goes on with the one
that runs, when the opcode is its own (R65; Tables 2.6, 5.1, 6.5, 8.1).
-/
namespace Sys2Proof.Machine

/-- An MXU op other than an attention op (Table 3.13). -/
def execMxuOp (c : Fin 64) (t : Nat) (up : List (Nat × Nat)) (s : State) : Host.Outcome State Fault Refusal :=
  .next (s.engineRow c 1 (fun o => o != 0x20) t up)
def execAttn (c : Fin 64) (t : Nat) (up : List (Nat × Nat)) (s : State) : Host.Outcome State Fault Refusal :=
  .next (s.engineRow c 1 (fun o => o == 0x20) t up)
def execVuOp (c : Fin 64) (t : Nat) (up : List (Nat × Nat)) (s : State) : Host.Outcome State Fault Refusal :=
  .next (s.engineRow c 2 (fun _ => true) t up)
def execExp (c : Fin 64) (t : Nat) (up : List (Nat × Nat)) (s : State) : Host.Outcome State Fault Refusal :=
  .next (s.engineRow c 3 (fun o => o == 1) t up)
def execExp2 (c : Fin 64) (t : Nat) (up : List (Nat × Nat)) (s : State) : Host.Outcome State Fault Refusal :=
  .next (s.engineRow c 3 (fun o => o == 2) t up)
def execLog (c : Fin 64) (t : Nat) (up : List (Nat × Nat)) (s : State) : Host.Outcome State Fault Refusal :=
  .next (s.engineRow c 3 (fun o => o == 3) t up)
def execLog2 (c : Fin 64) (t : Nat) (up : List (Nat × Nat)) (s : State) : Host.Outcome State Fault Refusal :=
  .next (s.engineRow c 3 (fun o => o == 4) t up)
def execRcp (c : Fin 64) (t : Nat) (up : List (Nat × Nat)) (s : State) : Host.Outcome State Fault Refusal :=
  .next (s.engineRow c 3 (fun o => o == 5) t up)
def execRsqrt (c : Fin 64) (t : Nat) (up : List (Nat × Nat)) (s : State) : Host.Outcome State Fault Refusal :=
  .next (s.engineRow c 3 (fun o => o == 6) t up)
def execRud (c : Fin 64) (t : Nat) (up : List (Nat × Nat)) (s : State) : Host.Outcome State Fault Refusal :=
  .next (s.engineRow c 3 (fun o => o == 0x10) t up)
def execRsuOp (c : Fin 64) (t : Nat) (up : List (Nat × Nat)) (s : State) : Host.Outcome State Fault Refusal :=
  .next (s.engineRow c 4 (fun _ => true) t up)
def execRefmax (c : Fin 64) (t : Nat) (up : List (Nat × Nat)) (s : State) : Host.Outcome State Fault Refusal :=
  .next (s.engineRow c 5 (fun o => o == 1) t up)
def execMerge (c : Fin 64) (t : Nat) (up : List (Nat × Nat)) (s : State) : Host.Outcome State Fault Refusal :=
  .next (s.engineRow c 5 (fun o => o == 2) t up)
def execLwadd (c : Fin 64) (t : Nat) (up : List (Nat × Nat)) (s : State) : Host.Outcome State Fault Refusal :=
  .next (s.engineRow c 5 (fun o => o == 3) t up)
def execLwround (c : Fin 64) (t : Nat) (up : List (Nat × Nat)) (s : State) : Host.Outcome State Fault Refusal :=
  .next (s.engineRow c 5 (fun o => o == 4) t up)
def execRollscale (c : Fin 64) (t : Nat) (up : List (Nat × Nat)) (s : State) : Host.Outcome State Fault Refusal :=
  .next (s.engineRow c 5 (fun o => o == 5) t up)
def execCopy (c : Fin 64) (t : Nat) (up : List (Nat × Nat)) (s : State) : Host.Outcome State Fault Refusal :=
  .next (s.engineRow c 6 (fun o => o == 1) t up)
def execMcast (c : Fin 64) (t : Nat) (up : List (Nat × Nat)) (s : State) : Host.Outcome State Fault Refusal :=
  .next (s.engineRow c 6 (fun o => o == 2) t up)
def execFetch (c : Fin 64) (t : Nat) (up : List (Nat × Nat)) (s : State) : Host.Outcome State Fault Refusal :=
  .next (s.engineRow c 6 (fun o => o == 3) t up)

/-- The next tile begins: its per-tile waits are taken and the op goes on (R57). -/
def execTileStart (c : Fin 64) (e : Engine) (t : Nat) (up : List (Nat × Nat)) (s : State) :
    Host.Outcome State Fault Refusal :=
  .next (
    let s := (s.at t).upset c up
    match s.eng c (Engine.code e) with
    | some r => if s.coreLive c && !r.tileOpen then s.engLoop engFuel c (Engine.code e) else s
    | none => s)

end Sys2Proof.Machine
end

