-- ==== Sys2Proof/Machine/ImageCmds.lean ====
section
/-!
DEFINITION. The image and security commands (R431, R432, R444 to R457, R464 to R475).
-/
namespace Sys2Proof.Machine

/-! ## Reading and writing banks -/

/-- Bytes of a bank, or of the resolved image for 3; none beyond it (R431). -/
def State.imageBytes (s : State) (bank off n : Nat) : Option (List Byte) :=
  if bank = 3 then
    let r := s.resolved
    if off + n ≤ r.length then some ((r.drop off).take n) else none
  else if off + n ≤ bankBytes then some (s.bankN bank off n) else none

def execImageRead (n : Fin 64) (s : State) : Host.Outcome State Fault Refusal :=
  .next (s.serve n.val 0x10 [place 0xFFFFFFFF 32 + 3, 0xFFFFFFFF] (fun s bs => s.sized n.val bs 16 (fun s =>
    match s.imageBytes (fld (argW bs 0) 1 0) (fld (argW bs 0) 63 32) (fld (argW bs 1) 31 0) with
    | some r => s.okBytes n.val r
    | none => s.fail n.val stBadArg)))

/-- Write the staging bank (R431); any write ends the authorisation (R471). None beyond the bank. -/
def State.stage (s : State) (off : Nat) (data : List Byte) : Option State :=
  if bankBytes < off + data.length then none
  else
    let b := s.staging
    let s := s.setBank b ((s.bankMem b).writeN off data)
    some { s with img := { s.img with auth := none } }

def execImageWrite (n : Fin 64) (s : State) : Host.Outcome State Fault Refusal :=
  .next (s.serve n.val 0x11 [place 0xFFFFFFFF 32] (fun s bs =>
    if bs.length < 8 then s.fail n.val stBadArg
    else match s.stage (fld (argW bs 0) 63 32) (bs.drop 8) with
      | some s => s.fail n.val stOk
      | none => s.fail n.val stBadArg))

/-! ## Commit and revert -/

/-- IMAGE_COMMIT (R456): `readBack` of its record's read-backs fail, each of which has used a slot. -/
def State.commitImage (s : State) (n op readBack : Nat) : State :=
  let b := s.staging
  let m := s.bankMem b
  let (ok, sigBad) := s.imageAccepted m
  if !imgOk m then s.fail n stRejected
  else if !ok then (if sigBad then s.logCp 0xB2 op 0 else s).fail n stAuthFail
  else if 2 ≤ readBack then (s.takeSlot.takeSlot).failD n stRejected 5
  else
    let s := if readBack = 1 then s.takeSlot else s
    ((s.writeCommit b s.validBank).setOwner b).reply n stOk 0 [] 1

def execImageCommit (n : Fin 64) (readBack : Nat) (s : State) : Host.Outcome State Fault Refusal :=
  .next (s.serve n.val 0x12 [] (fun s bs => s.sized n.val bs 0 (fun s => s.commitImage n.val 0x12 readBack)))

/-- IMAGE_REVERT with FACTORY 0 (R457, R472). -/
def State.revertImage (s : State) (n : Nat) : State :=
  match s.commitRec with
  | none => s.fail n stNotInState
  | some (v, p, _, _, pd) =>
    if p = 0 || imgDigest 16 (s.bankMem p) ≠ pd then s.fail n stNotInState
    else if s.sec.ownerKey.isSome && ownerKeyOf (s.bankMem p) ≠ s.sec.ownerKey then s.fail n stAuthFail
    else ((s.writeCommit p v).setOwner p).fail n stOk

def execImageRevert (n : Fin 64) (s : State) : Host.Outcome State Fault Refusal :=
  .next (s.serve n.val 0x13 [1] (fun s bs => s.sized n.val bs 8 (fun s =>
    if argW bs 0 = 0 then s.revertImage n.val
    else if s.sec.ownerKey.isSome then s.fail n.val stAuthFail
    else ((s.writeCommit 0 s.validBank).setOwner 0).fail n.val stOk)))

/-! ## Attestation -/

/-- Measurement of a user bank: of its image, or 0 when its header fails (R473). -/
def bankMeasure (m : Mem) : List Byte := if imgHdrOk (imgHdr m) then imgDigest 32 m else zeroDigest

/-- The 384-byte body of a report (Tables 20.4 and 20.5). -/
def State.reportBody (s : State) (nonce : List Byte) : List Byte :=
  let r := s.memberRec
  bytes64 [place 0x0F24A77E 32 + place 1 16, place 384 32 + 49856, place Config.romVersion.toNat 32 + 0xA0, s.ep.next % 2 ^ 64,
    place s.beatNo 16,
    place ((s.sec.reports + 1) % 2 ^ 32) 32 + place (s.field 0x0100 % 4) 8 + place (b2n s.sec.unsignedOk) 7 +
      place (s.field 0x0160 % 2) 6 + place s.pat.st.code 4 + place (s.img.bank % 4) 2 + place (b2n s.car.member) 1,
    place ((r.map CarRec.cid).getD 0) 32 + place ((r.map CarRec.self).getD 0xFFFF) 16, 0] ++
  nonce ++ shake256 32 idKey ++ (List.range 32).map Config.romDigest ++
  shake256 32 ((List.range Config.bankFLen).map bankFByte) ++ bankMeasure s.img.u0 ++ bankMeasure s.img.u1 ++
  s.patDigest ++ s.rud.digest ++ keyMeasure s.sec.ownerKey ++ zeroDigest

def execAttest (n : Fin 64) (s : State) : Host.Outcome State Fault Refusal :=
  .next (s.serve n.val 0x20 [] (fun s bs =>
    if !(s.sec.idOk && s.sec.keyHeld) then s.fail n.val stNotInState
    else if bs.length ≠ 32 || !(s.box n.val).sgl then s.fail n.val stBadArg
    else
      let body := s.reportBody bs
      let s := { s with sec := { s.sec with reports := s.sec.reports + 1 } }
      s.okBytes n.val (body ++ (List.range 49856).map (Config.identitySign body))))

def execIdentityCert (n : Fin 64) (s : State) : Host.Outcome State Fault Refusal :=
  .next (s.serve n.val 0x21 [] (fun s bs =>
    if bs.length ≠ 0 || !(s.box n.val).sgl then s.fail n.val stBadArg else s.okBytes n.val idCert))

/-! ## Owner key -/

/-- The field entries of the valid user bank with the owner's two fields set (R471). -/
def State.ownerEntries (s : State) (key : List Byte) (policy : Nat) : List (Nat × List Byte) :=
  let m := s.bankMem s.validBank
  let old := if s.validBank = 0 then [] else
    (entriesOf m).map (fun e => (e.key, m.readN e.off e.len))
  let put (es : List (Nat × List Byte)) (k : Nat) (v : List Byte) : List (Nat × List Byte) :=
    if es.any (fun e => e.1 == k) then es.map (fun e => if e.1 = k then (k, v) else e) else es ++ [(k, v)]
  put (put old 0x0170 key) 0x0171 (natLe 4 policy)

/-- Build the staging bank as an unsigned image and authorise it (R471); a bank too small answers NO_RESOURCE. -/
def State.stageOwner (s : State) (n : Nat) (key : List Byte) (policy : Nat) : State :=
  let es := s.ownerEntries key policy
  let bytes := imgBytes 1 es
  if 4096 < es.length then s.fail n stNoResource
  else match s.stage 0 bytes with
    | none => s.fail n stNoResource
    | some s => ({ s with img := { s.img with auth := some (shake256 32 bytes) } }).fail n stOk

def execOwnerKeySet (n : Fin 64) (s : State) : Host.Outcome State Fault Refusal :=
  .next (s.serve n.val 0x22 [allBits, allBits, allBits, allBits, allBits, allBits, allBits, allBits, 1] (fun s bs =>
    let args := bs.take 72
    match s.sec.ownerKey with
    | none => s.sized n.val bs 72 (fun s => s.stageOwner n.val (args.take 64) (argW bs 8))
    | some k => s.sized n.val bs (72 + sigBytes) (fun s =>
      if Config.slhVerify k (ascii "FOPRA-OWNER" ++ natLe 8 s.commitCount) args (bs.drop 72) then
        s.stageOwner n.val (args.take 64) (argW bs 8)
      else (s.logCp 0xB2 0x22 0).fail n.val stAuthFail)))

end Sys2Proof.Machine
end

