-- ==== Sys2Proof/Machine/HoldOps.lean ====
section
/-!
DEFINITION. Hold entry and exit (R375 to R384) as shared operations.
-/
namespace Sys2Proof.Machine

/-! ## Supply conditions (R383) -/

/-- Is the rail one without a backup. -/
def AnyRail.single : AnyRail → Bool
  | .rail _ => true
  | _ => false

/-- PWRGD_MAIN asserted, every rail without a backup in range, every pair on its main rail. A rail that has sagged for 1 µs,
the time over which R502 takes its average, is out of range too (log 34). -/
def State.supplyOk (s : State) : Bool :=
  s.cp.pwrgd && s.sup.railsOut.isEmpty && s.sup.onBackup.all (fun b => !b) &&
    s.sup.sags.all (fun g => !(AnyRail.single g.1 && decide (1000 ≤ s.now - g.2.1)))

/-- Note since when the conditions hold. -/
def State.noteSupply (s : State) : State :=
  { s with cp := { s.cp with stableAt := if s.supplyOk then some (s.cp.stableAt.getD s.now) else none } }

/-- Have the conditions held together for 10 ms without a break. -/
def State.supplyStable (s : State) : Bool :=
  s.supplyOk && s.cp.stableAt.any (fun x => decide (10000000 ≤ s.now - x))

/-! ## Entry -/

/-- Image commands in progress continue in hold (Table 16.6). -/
def imageOp (op : Nat) : Bool := op == 0x11 || op == 0x12 || op == 0x13

/-- Outcome at hold entry of a command in progress in mailbox n (Table 16.6). -/
def State.endCommand (s : State) (n : Nat) : State :=
  match s.mb.jobs.find? (fun j => j.n == n) with
  | none => if imageOp (s.box n).g2op then
      { s with mb := { s.mb with jobs := s.mb.jobs ++ [⟨n, .image, [], none, [], []⟩] } }
    else s.fail n stNotInState
  | some j => match j.kind with
    | .resync | .image | .commit | .holdEnter => s
    | .stepWait => (s.undoPins j.units).failD n stKnell 0x0C
    | .append => (s.undoPins j.units).fail n stNotInState
    | .tierPrefetch | .tierEvict =>
      s.replyUnits n (j.units.map (fun u => u.2.getD stNotInState)) []
    | _ => s.fail n stNotInState

/-- Every command in progress but `keep` ends as Table 16.6 gives: those of every mailbox, before READY those of mailbox 63
(R416). -/
def State.endCommands (s : State) (keep : Option Nat) : State :=
  let going := s.mb.order.filter (fun n => (s.cp.holdFrom.any (fun h => h.2 == 4) || n == 63) && keep != some n)
  let s := going.foldl State.endCommand s
  { s with car := { s.car with forming := none, copiesDue := [] } }

/-- Page records through hold entry: copies are abandoned, EVPEND is cleared, no write is in flight (Table 16.6). -/
def Page.held (p : Page) : Page :=
  let q := { p with evpend := false, forced := false, inflight := 0, prefetch := false }
  if p.st = 1 then { q with st := 0, frame := 0 } else if p.st = 3 then { q with st := 2 } else q

/-- A port through hold entry: down, unless disabled. -/
def PortS.held (p : Port) (x : PortS) : PortS :=
  match x.st with
  | .disabled => x
  | _ => portInit (Port.idx p)

/-- Are the lanes of the ports powered (Table 16.1). -/
def State.serPowered (s : State) : Bool := !(s.sup.railsOut.contains .vser || s.sup.railsOut.contains .vserHi)

/-- Ports whose lanes lost their power are down, so nothing is sent on them (R376). -/
def State.dropUnpowered (s : State) : State :=
  if s.serPowered then s
  else { s with ports := allPorts.map (fun p => (Port.idx p,
    if (s.port p).trained then { s.port p with st := .down } else s.port p)) }

/-- The knell and the retirement of an epoch in RUNNING or DONE (R376, R379). -/
def State.endEpoch (s : State) : State :=
  if s.ep.st = .running || s.ep.st = .done then
    let e := s.ep.next
    let s := (s.raiseKnell 0x0C 0 5 0).retire e
    { s with ep := { s.ep with quiet := true, knell := none, orig := 0, absorbed := 0 }, lead := { s.lead with quiets := [] } }
  else s

/-- What hold loses (Table 16.5): core stores, staging cache, reduction memory, queues, links. -/
def State.loseState (s : State) : State :=
  let tele := (List.range 64).foldl (fun t c => Table.set 0 t (teleKey 3 (4 * c)) 0) s.tele
  { s with
    cores := [], tele := tele, rt := State.reset.rt, fab := State.reset.fab,
    ports := allPorts.map (fun p => (Port.idx p, (s.port p).held p)),
    hif := { s.hif with up := false },
    kv := { s.kv with
      lens := s.kv.lens.map (fun e => (e.1, { e.2 with prov := 0 })),
      copyq := [], draining := [],
      recs := s.kv.recs.map (fun e => (e.1, e.2.map Page.held)) },
    dram := { s.dram with selfRef := s.dram.trained, closed := false, grants := [], bgFrom := [] },
    beat := { s.beat with window := 0, deferRef := false },
    pwr := { s.pwr with ballast := false, ramp := false },
    sec := { s.sec with keyHeld := false } }

/-- A HOLD notice goes over PT while it is powered, and the loss of PT is a pause; else the pair loses PT (R381). -/
def State.pausePt (s : State) : State :=
  let powered := (s.port .pt).trained && s.serPowered
  if s.twin.st ≠ 1 && s.twin.st ≠ 3 then s
  else if powered then { s.emit (.ptNotice "HOLD" [] []) with twin := { s.twin with paused := true } }
  else s.ptLost

/-- Enter hold (R375 to R381). In hold a further cause only stops an exit sequence (log 34). -/
def State.enterHold (s : State) (cause : Nat) (keep : Option Nat) : State :=
  if !s.live then s
  else if s.cp.phase = 5 then { s with cp := { s.cp with exiting := none } }
  else
    let s := { s with cp := { s.cp with phase := 5, holdFrom := some (s.now, s.cp.phase), exiting := none } }
    let s := s.dropUnpowered.endEpoch
    let s := s.endCommands keep
    let s := s.pausePt
    let s := s.loseState
    let s := { s with sup := { s.sup with cause := cause, count := min 65535 (s.sup.count + 1) } }
    s.logEvent 5 0 0x93 cause 0

/-! ## Exit -/

/-- The exit sequence starts (R383, R384). -/
def State.beginExit (s : State) (at_ : Nat) : State := { s with cp := { s.cp with exiting := some at_ } }

/-- The bit of a chime that hold kept; a message that a mask suppresses is held pending (R413). A key above 63 is a QUIET
one. -/
def State.markHeld (s : State) (k : Nat) : State :=
  let n := k % 64
  let s := { s with bar := { s.bar with chimeStatus := setBit s.bar.chimeStatus n } }
  if decide (k < 64) && s.suppressed n then { s with pcie := { s.pcie with held := s.pcie.held.insert n } } else s

/-- Post the chimes that hold kept (R380). The messages are those of a link that trained again (R400, log 34). -/
def State.postHeld (s : State) : State :=
  (s.mb.heldChimes.foldl State.markHeld { s with mb := { s.mb with heldChimes := [] } }).announce

/-- The pause of PT ends on the device that held: mirroring or a resync goes on when PT trained (R381). -/
def State.resumePt (s : State) : State :=
  if s.twin.paused then
    let s := { s with twin := { s.twin with paused := false } }
    if (s.port .pt).trained then s else s.stale 4 s.validSide
  else s

/-- The end of the exit sequence (Table 16.7). Links train when the device was beyond LINK_TRAIN. -/
def State.leaveHold (s : State) (modules rate : Nat) (ports : List (Port × PortTrain)) : State :=
  match s.cp.holdFrom with
  | none => s
  | some (t0, ph) =>
    let s := { s with
      dram := { s.dram with selfRef := false },
      sec := { s.sec with keyHeld := s.sec.idOk },
      sup := { s.sup with exited := true },
      cp := { s.cp with phase := ph, phaseAt := s.now, holdFrom := none, exiting := none } }
    let s := if ph = 4 then ((s.trainHif modules rate).trainPorts ports).resumePt else s
    let s := if s.pat.st = .started then s.loadCores else s
    (s.logEvent 5 0 0x94 0 (s.now - t0)).postHeld

end Sys2Proof.Machine
end

