-- ==== Sys2Proof/Machine/TestPolicy.lean ====
section
/-!
DEFINITION. SELFTEST, CALIBRATE (R245, R440), the policy commands (R441), BEAT_SYNC, RESET_WARM and the hold commands (R442,
R383). `fails` of a test row names the units that the test finds bad (of a port that is calibrated at once, what training
finds does).
-/
namespace Sys2Proof.Machine

/-! ## Housekeeping requests -/

/-- The beat of the long window chosen for a deferred request (R245, R246): the next long beat, or with long windows
suppressed the first that is forced. -/
def State.nextLong (s : State) : Nat :=
  let l := (s.beatNo / 1024 + 1) * 1024
  if s.quietWindows then
    let due := s.beat.lastLong + 2000000000
    let reach := s.beat.start + (l - s.beatNo) * s.period
    l + (if reach < due then ceilDiv (due - reach) (1024 * s.period) * 1024 else 0)
  else l

/-- A request that waits for long windows completes DEFERRED; its outcome is kept for the last of the `slices` windows that it
takes, from the chosen one on (R245). -/
def State.deferTask (s : State) (n op status slices : Nat) : State :=
  let b := s.nextLong
  let s := { s with beat := { s.beat with tasks := s.beat.tasks ++ [(⟨op, status, b, slices⟩ : Task)] } }
  s.answer n stDeferred 0 (bytes64 [b % 2 ^ 48]) [b % 2 ^ 32]

/-- Calibrating a port trains it fully, in up to 3 attempts (R287, R288); what waited on it is discarded. -/
def State.calibratePort (s : State) (p : Port) (rs : List PortTrain) : State :=
  if !s.portEnabled p then s
  else
    let x := s.port p
    let t := (s.dropFlits p x.waitq).trainPort p rs
    if p = .pt && (!(t.port p).trained || !t.twin.mirror.isEmpty) then t.ptLost else t

/-- Units of SELFTEST: set bits of TARGETS, then of CORES as 64 + core (R440). -/
def testUnits (targets cores : Nat) : List Nat := setBits 32 targets ++ (setBits 64 cores).map (64 + ·)

/-- One core's unit under KIND 1: while a step runs only spares are tested (Table 9.4). A core gated for more than 1 ms is tested
when its clock starts (R244); its outcome is none until then. -/
def State.testUnit (a : State × List (Option Nat)) (fails : List Nat) (kind u : Nat) : State × List (Option Nat) :=
  let s := a.1
  if kind = 1 && 64 ≤ u then
    if s.running && !hasBit (patSpares s.pat.image) (u - 64) then (s, a.2 ++ [some stBusy])
    else if s.coldCore (u - 64) then (s, a.2 ++ [none])
    else (s.testCore (u - 64), a.2 ++ [some (testStatus fails u)])
  else (s, a.2 ++ [some (testStatus fails u)])

/-- SELFTEST of KIND 0 or 1 on these units (R245, R440). -/
def State.selftest (s : State) (n kind targets cores : Nat) (fails : List Nat) : State :=
  let us := testUnits targets cores
  if kind = 0 && s.running then
    s.deferTask n 0x90 (splitStatus (us.map (testStatus fails))) ((us.map (fun u => Config.testSlices u + 1)).foldl (· + ·) 0)
  else
    let a := us.foldl (fun a u => State.testUnit a fails kind u) (s, [])
    if a.2.all Option.isSome then a.1.replyUnits n (a.2.map (fun x => x.getD 0)) []
    else { a.1 with mb := { a.1.mb with jobs := a.1.mb.jobs ++ [⟨n, .selftest, us.zip a.2, none, [], fails⟩] } }

/-- One unit of CALIBRATE: a stack (its bond lanes are tested, R266) or a port; a unit of a class not asked for has nothing
to do. -/
def State.calibrateUnit (a : State × List Nat) (dram ports : Bool) (fails : List Nat) (found : TrimFinds) (u : Nat) : State × List Nat :=
  let s := a.1
  if u < 24 then
    if dram then ((found.lanes.filter (fun l => l.1 / 32 == u)).foldl (fun s l => s.spareLane l.1 l.2) s, a.2 ++ [testStatus fails u])
    else (s, a.2 ++ [stOk])
  else if ports then
    let p := Port.ofIdx (u - 24)
    let s := s.calibratePort p (attemptsOf found.ports p)
    (s, a.2 ++ [if (s.port p).trained then stOk else stRejected])
  else (s, a.2 ++ [stOk])

/-- CALIBRATE (R245, R440). -/
def State.calibrate (s : State) (n : Nat) (dram ports : Bool) (targets : Nat) (fails : List Nat) (found : TrimFinds) : State :=
  let us := setBits 31 targets
  if s.running then s.deferTask n 0x91 (splitStatus (us.map (testStatus fails))) 1
  else
    let a := us.foldl (fun a u => State.calibrateUnit a dram ports fails found u) (s, [])
    a.1.replyUnits n a.2 []

def execSelftest (n : Fin 64) (fails : List Nat) (s : State) : Host.Outcome State Fault Refusal :=
  .next (s.serve n.val 0x90 [1, bits 31 0, allBits] (fun s bs => s.sized n.val bs 24 (fun s =>
    if argW bs 0 = 1 && bitAt (argW bs 1) 31 then s.fail n.val stBadArg
    else s.selftest n.val (argW bs 0) (argW bs 1) (argW bs 2) fails)))

def execCalibrate (n : Fin 64) (fails : List Nat) (found : TrimFinds) (s : State) : Host.Outcome State Fault Refusal :=
  guardUnit (lanesOk found.lanes) (s.serve n.val 0x91 [3, bits 30 0] (fun s bs => s.sized n.val bs 16 (fun s =>
    s.calibrate n.val (bitAt (argW bs 0) 0) (bitAt (argW bs 0) 1) (argW bs 1) fails found)))

/-! ## Policies -/

def policyKey (key : Nat) : Bool := key == 0x0001 || (intKeys.contains key && decide (key < 0x0100))

/-- The values that the routing word may have (Table 11.6, R282). -/
def State.routingOk (s : State) (v : Nat) : Bool :=
  let t := torusOf v
  let dim (own size most pos : Nat) : Bool :=
    decide (1 ≤ size) && decide (size ≤ most) && decide (own < size) &&
      (size == 1 || (s.portEnabled (Port.ofIdx (2 * pos)) && s.portEnabled (Port.ofIdx (2 * pos + 1))))
  fld v 63 48 == 0 && dim t.own.1 t.size.1 16 0 && dim t.own.2.1 t.size.2.1 32 1 && dim t.own.2.2 t.size.2.2 40 2

def execPolicySet (n : Fin 64) (s : State) : Host.Outcome State Fault Refusal :=
  .next (s.serve n.val 0xA0 [bits 15 0, allBits] (fun s bs => s.sized n.val bs 16 (fun s =>
    let key := argW bs 0
    let v := argW bs 1
    if !policyKey key then s.fail n.val stBadArg
    else if key = 0x0001 && s.car.member then s.fail n.val stNotInState
    else if !(if key = 0x0001 then s.routingOk v else fieldOk key v) then s.fail n.val stBadArg
    else
      ((s.tellTwin "POLICY_SET" [key, v] []).queuePolicy key v).okWords n.val [])))

/-- The value of a key in force (R441, Table 18.8): the threshold is that of the last formation, the commit limit that of the
epoch in progress. -/
def State.inForce (s : State) (key : Nat) : Nat :=
  if key = 0x0030 then (if s.car.member then s.car.threshold else s.field key)
  else if s.ep.st = .idle then s.policy key
  else (Table.find s.ep.stepPolicy key).getD (s.policy key)

def execPolicyGet (n : Fin 64) (s : State) : Host.Outcome State Fault Refusal :=
  .next (s.serve n.val 0xA1 [bits 15 0] (fun s bs => s.sized n.val bs 8 (fun s =>
    let key := argW bs 0
    if !policyKey key then s.fail n.val stBadArg
    else if key = 0x0001 then s.okWords n.val [s.pol.routing.getD 0, 0]
    else s.okWords n.val [s.inForce key, s.field key])))

/-! ## Beat, reset and hold -/

def execBeatSync (n : Fin 64) (s : State) : Host.Outcome State Fault Refusal :=
  .next (s.serve n.val 0xA2 [bits 47 0, bits 47 0] (fun s bs =>
    if s.running then s.fail n.val stNotInState
    else s.sized n.val bs 16 (fun s =>
      if s.beatPairOk (argW bs 0) then (s.shiftBeat (argW bs 0) (argW bs 1)).okWords n.val []
      else s.fail n.val stBadArg)))

/-- RESET_WARM completes with OK, then the reset begins (R442). -/
def State.warmReset (s : State) (n : Nat) (keep : Bool) : State := (s.finish n stOk 0 0 0 []).takeReset 3 keep

def execResetWarm (n : Fin 64) (s : State) : Host.Outcome State Fault Refusal :=
  .next (s.serve n.val 0xF0 [1] (fun s bs => s.sized n.val bs 8 (fun s => s.warmReset n.val (bitAt (argW bs 0) 0))))

/-- HOLD_ENTER completes once hold is entered; its chime waits for the exit (R380, R442). -/
def execHoldEnter (n : Fin 64) (t : Nat) (s : State) : Host.Outcome State Fault Refusal :=
  .next ((s.at t).serve n.val 0xF1 [] (fun s bs => s.sized n.val bs 0 (fun s =>
    (s.enterHold 4 (some n.val)).fail n.val stOk)))

/-- HOLD_EXIT starts the exit sequence once the supply conditions have held for 10 ms (R383, R384, log 34). -/
def execHoldExit (n : Fin 64) (t : Nat) (s : State) : Host.Outcome State Fault Refusal :=
  .next ((s.at t).serve n.val 0xF2 [] (fun s bs =>
    if !(s.cp.phase == 5 && s.sup.cause == 4 && s.supplyOk) then s.fail n.val stNotInState
    else s.sized n.val bs 0 (fun s =>
      let from_ := (s.cp.stableAt.getD s.now) + 10000000
      (s.beginExit (max s.now from_)).fail n.val stOk)))

end Sys2Proof.Machine
end

