-- ==== Sys2Proof/Machine/G1.lean ====
section
/-!
DEFINITION. The G1 command set (R443, Table 18.9): 32-bit words W0, W1 and so on, host data through buffer descriptors,
results with each field of the G2 result in a 32-bit word (log 18).
-/
namespace Sys2Proof.Machine

/-- Bytes that a buffer descriptor in W(k), W(k+1) names: address and length (R443). -/
def g1Desc (bs : List Byte) (k : Nat) : Nat × Nat := (argG1 bs k, 4 * fld (argG1 bs (k + 1)) 23 0)

/-- Complete with 32-bit result words, each a field's low 32 bits. -/
def State.g1Words (s : State) (n detail : Nat) (ws : List Nat) : State := s.reply n stOk detail (ws.flatMap (natLe 4)) 0

/-! ## Information -/

/-- Fields of INFO page 0 before its digests, in the order of Table 18.3. -/
def State.infoFields (s : State) : List Nat :=
  let z := s.infoWords.getD 3 0
  [s.ep.next, s.beatNo, s.twin.word, fld z 63 48, fld z 47 32, fld z 31 24, fld z 23 16, fld z 15 8, fld z 7 6, fld z 5 5,
   fld z 4 3, fld z 2 2, fld z 1 0]

def execG1Info (n : Fin 64) (s : State) : Host.Outcome State Fault Refusal :=
  .next (s.serveG1 n.val 0x01 (fun s bs => s.sized n.val bs 0 (fun s =>
    s.reply n.val stOk 0 (s.infoFields.flatMap (natLe 4) ++ s.patDigest ++ s.rud.digest) 0)))

def execG1Status (n : Fin 64) (s : State) : Host.Outcome State Fault Refusal :=
  .next (s.serveG1 n.val 0x02 (fun s bs => s.sized n.val bs 0 (fun s => s.g1Words n.val 0 ((s.telePage 0).getD []))))

/-- Fields of an event record in the order of Table 18.5. -/
def EvRec.fields (e : EvRec) : List Nat := [e.seq, e.kind % 256, e.index % 256, e.code % 65536, e.beat, e.data0, e.phase, e.data1]

def execLogRead (n : Fin 64) (s : State) : Host.Outcome State Fault Refusal :=
  .next (s.serveG1 n.val 0x03 (fun s bs => s.sized n.val bs 8 (fun s =>
    let maxrec := g1F bs 1 15
    if maxrec < 1 || 16384 < maxrec then s.fail n.val stBadArg
    else
      let (next, recs, older) := s.readLog (argG1 bs 0) maxrec (fun _ => true)
      s.g1Words n.val (if older then 3 else 0) (next :: recs.flatMap EvRec.fields))))

/-! ## Image -/

/-- IMAGE_READ into a host buffer; RESULT_LEN is the bytes written. -/
def State.g1ImageRead (s : State) (n bank off : Nat) (d : Nat × Nat) : State :=
  match s.imageBytes bank off d.2 with
  | none => s.fail n stBadArg
  | some r => match s.hostWrite d.1 r with
    | some s => s.finish n stOk 0 r.length 0 []
    | none => s.failD n stRejected 1

def execCfgRead (n : Fin 64) (s : State) : Host.Outcome State Fault Refusal :=
  .next (s.serveG1 n.val 0x08 (fun s bs => s.sized n.val bs 16 (fun s =>
    s.g1ImageRead n.val (g1F bs 0 1) (argG1 bs 1) (g1Desc bs 2))))

/-- IMAGE_WRITE from a host buffer. -/
def State.g1ImageWrite (s : State) (n off : Nat) (d : Nat × Nat) : State :=
  match s.hostRead d.1 d.2 with
  | none => s.failD n stRejected 1
  | some data => match s.stage off data with
    | some s => s.fail n stOk
    | none => s.fail n stBadArg

def execCfgWrite (n : Fin 64) (s : State) : Host.Outcome State Fault Refusal :=
  .next (s.serveG1 n.val 0x09 (fun s bs => s.sized n.val bs 12 (fun s =>
    s.g1ImageWrite n.val (argG1 bs 0) (g1Desc bs 1))))

def execCfgCommit (n : Fin 64) (readBack : Nat) (s : State) : Host.Outcome State Fault Refusal :=
  .next (s.serveG1 n.val 0x0A (fun s bs => s.sized n.val bs 0 (fun s => s.commitImage n.val 0x0A readBack)))

/-! ## Patterns -/

/-- Complete with the answer of a pattern command: 64-bit words reduced to their low halves. -/
def Ans.g1Reply (a : Ans) (n : Nat) : State := a.s.reply n a.code a.detail ((words64 a.bytes).flatMap (natLe 4)) 0

def execModelLoad (n : Fin 64) (s : State) : Host.Outcome State Fault Refusal :=
  .next (s.serveG1 n.val 0x10 (fun s bs => s.sized n.val bs 8 (fun s =>
    let d := g1Desc bs 0
    match s.hostRead d.1 d.2 with
    | some img =>
      let a := s.patternLoad img
      a.s.reply n.val a.code a.detail a.bytes 0
    | none => s.failD n.val stRejected 1)))

/-- Fields of Table 18.6. -/
def verifyFields (z : Nat) : List Nat := [fld z 63 32, fld z 31 24, fld z 23 16, fld z 15 0]

def execModelCheck (n : Fin 64) (s : State) : Host.Outcome State Fault Refusal :=
  .next (s.serveG1 n.val 0x11 (fun s bs =>
    if s.pat.st != .loaded && s.pat.st != .verified then s.fail n.val stNotInState
    else s.sized n.val bs 0 (fun s =>
      let a := s.patternVerify.1
      a.s.reply n.val a.code a.detail ((words64 a.bytes).flatMap (fun z => (verifyFields z).flatMap (natLe 4))) 0)))

def execRunStart (n : Fin 64) (s : State) : Host.Outcome State Fault Refusal :=
  .next (s.serveG1 n.val 0x12 (fun s bs =>
    if s.pat.st != .verified then s.fail n.val stNotInState else s.sized n.val bs 0 (fun s => s.patternStart.g1Reply n.val)))

def execRunStop (n : Fin 64) (s : State) : Host.Outcome State Fault Refusal :=
  .next (s.serveG1 n.val 0x13 (fun s bs =>
    if s.pat.st != .started || s.ep.st != .idle then s.fail n.val stNotInState
    else s.sized n.val bs 0 (fun s => s.patternStop.g1Reply n.val)))

/-! ## Sequences -/

/-- SEQ_OPEN's argument words for a SEQ_NEW (Table 18.9). -/
def seqNewWords (seq maxlen w2 : Nat) : List Nat :=
  let g := grainOf (fld w2 11 10)
  [seq,
   place maxlen 32 + place (fld w2 22 15) 16 + place (fld w2 14 12) 12 + place (fld w2 11 10) 10 + fld w2 9 0,
   place 1 32 + 1,
   place (fld w2 27 23) 32 + ceilDiv maxlen g]

def execSeqNew (n : Fin 64) (s : State) : Host.Outcome State Fault Refusal :=
  .next (s.seqTake n.val .seqOpen (fun s => s.serveG1 n.val 0x20 (fun s bs =>
    let seq := g1F bs 0 7
    if !s.seqFree_ seq n.val then s
    else if bs.length ≠ 12 then (if s.pat.st = .none then s.fail n.val stNotInState else s.fail n.val stBadArg)
    else s.openGo n.val (seqNewWords seq (g1F bs 1 23) (g1F bs 2 27)))))

def execSeqPut (n : Fin 64) (twinOk : Bool) (s : State) : Host.Outcome State Fault Refusal :=
  .next (s.seqTake n.val .append (fun s => s.serveG1 n.val 0x21 (fun s bs =>
    let seq := g1F bs 0 7
    let d := g1Desc bs 2
    if !s.seqFree_ seq n.val then s
    else if bs.length ≠ 16 then (if (s.lens seq).isOpen then s.fail n.val stBadArg else s.fail n.val stNotInState)
    else s.appendGo n.val seq (g1F bs 1 23) d.1 d.2 twinOk)))

def execSeqFree (n : Fin 64) (s : State) : Host.Outcome State Fault Refusal :=
  .next (s.serveG1 n.val 0x22 (fun s bs =>
    let seq := g1F bs 0 7
    if bs.length ≠ 4 && (s.lens seq).isOpen then s.fail n.val stBadArg
    else if s.closeWaits seq then s
    else (s.seqClose seq).g1Reply n.val))

/-- A length as 24 bits; whether it was above them (R443). -/
def clip24 (v : Nat) : Nat := min v 0xFFFFFF

/-- An entry of SEQ_LEN (Table 18.9). -/
def Lens.g1Entry (l : Lens) : Nat := place (b2n l.isOpen) 48 + place (clip24 l.maxlen) 24 + clip24 l.committed

def execSeqLen (n : Fin 64) (s : State) : Host.Outcome State Fault Refusal :=
  .next (s.serveG1 n.val 0x23 (fun s bs => s.sized n.val bs 4 (fun s =>
    let first := fld (argG1 bs 0) 7 0
    let cnt := fld (argG1 bs 0) 15 8
    if cnt = 0 || 254 < cnt || 256 < first + cnt then s.fail n.val stBadArg
    else
      let ls := (List.range cnt).map (fun i => s.lens (first + i))
      let overs := ls.any (fun l => decide (0xFFFFFF < l.committed) || decide (0xFFFFFF < l.maxlen))
      s.reply n.val stOk (if overs then 4 else 0) (bytes64 (ls.map Lens.g1Entry)) 0)))

/-! ## Steps -/

def execInfer (n : Fin 64) (t : Nat) (s : State) : Host.Outcome State Fault Refusal :=
  .next ((s.at t).serveG1 n.val 0x30 (fun s bs =>
    if bs.length ≠ 8 then
      (if s.pat.st != .started || s.ep.st != .idle || !s.ep.quiet then s.fail n.val stNotInState else s.fail n.val stBadArg)
    else s.stepRun n.val [s.ep.next, 1, place (g1F bs 1 23) 32 + g1F bs 0 7]))

def execAccept (n : Fin 64) (t : Nat) (s : State) : Host.Outcome State Fault Refusal :=
  .next ((s.at t).serveG1 n.val 0x31 (fun s bs =>
    if bs.length ≠ 8 then
      (if !s.isLead then s.fail n.val stRejected
       else if s.ep.st != .done then s.fail n.val stNotInState
       else s.fail n.val stBadArg)
    else s.stepCommit n.val s.ep.next [(g1F bs 0 7, g1F bs 1 23)]))

def execCancel (n : Fin 64) (t : Nat) (s : State) : Host.Outcome State Fault Refusal :=
  .next ((s.at t).serveG1 n.val 0x32 (fun s bs =>
    if bs.length ≠ 0 && (s.ep.st == .running || s.ep.st == .done) then s.fail n.val stBadArg
    else s.stepAbort n.val s.ep.next))

/-! ## Test and reset -/

def execTest (n : Fin 64) (fails : List Nat) (s : State) : Host.Outcome State Fault Refusal :=
  .next (s.serveG1 n.val 0x40 (fun s bs => s.sized n.val bs 4 (fun s => s.selftest n.val 0 (argG1 bs 0) 0 fails)))

def execTrim (n : Fin 64) (fails : List Nat) (found : TrimFinds) (s : State) : Host.Outcome State Fault Refusal :=
  guardUnit (lanesOk found.lanes) (s.serveG1 n.val 0x41 (fun s bs => s.sized n.val bs 8 (fun s =>
    s.calibrate n.val (bitAt (argG1 bs 0) 0) (bitAt (argG1 bs 0) 1) (g1F bs 1 30) fails found)))

def execReset (n : Fin 64) (s : State) : Host.Outcome State Fault Refusal :=
  .next (s.serveG1 n.val 0x7F (fun s bs => s.sized n.val bs 4 (fun s => s.warmReset n.val (bitAt (argG1 bs 0) 0))))

end Sys2Proof.Machine
end

