-- ==== Sys2Proof/Machine/HostRegs.lean ====
section
/-!
DEFINITION. The host rows over BAR0, BAR2 and the I3C port (R402 to R419).
-/
namespace Sys2Proof.Machine

/-- Pieces that the host stored in its own memory before the write (log 6). -/
def State.hostStored (s : State) (mem : List (Nat × List Byte)) : State :=
  mem.foldl (fun s e => { s with host := { s.host with bytes := s.host.bytes.writeN e.1 e.2 } }) s

/-- A host write to OWNER of mailbox n (R410, R411). -/
def execOwnerWrite (n : Fin 64) (v : Word32) (mem : List (Nat × List Byte)) (s : State) : Host.Outcome State Fault Refusal :=
  .next (
    let s := s.hostStored mem
    if s.barOpen then s.mboxWrite n.val 0 (natLe 4 v.toNat) else s)

/-- The halves of a 64-bit register that an access covers: bits [31:0], [63:32] or both of the value. -/
def takesLo : Half → Bool | .hi => false | _ => true
def takesHi : Half → Bool | .lo => false | _ => true

/-- A write of one or both halves of a 64-bit register. -/
def State.putHalves (s : State) (off : Nat) (lo hi : Bool) (v : Word64) : State :=
  let s := if lo then s.regPut off (fld v.toNat 31 0) 0xFFFFFFFF else s
  if hi then s.regPut (off + 4) (fld v.toNat 63 32) 0xFFFFFFFF else s

/-- W1C write to CHIME_STATUS (R413). -/
def execChimeStatusWrite (h : Half) (v : Word64) (s : State) : Host.Outcome State Fault Refusal :=
  .next (if s.barOpen then s.putHalves 0x040 (takesLo h) (takesHi h) v else s)

/-- Write to CHIME_MASK (R413). -/
def execChimeMaskWrite (h : Half) (v : Word64) (s : State) : Host.Outcome State Fault Refusal :=
  .next (if s.barOpen then s.putHalves 0x048 (takesLo h) (takesHi h) v else s)

/-- Write to APERTURE_BASE (R406). -/
def execApertureBaseWrite (v : Word32) (s : State) : Host.Outcome State Fault Refusal :=
  .next (if s.barOpen then s.regPut 0x500 v.toNat 0xFFFFFFFF else s)

/-- W1C write to SUPPLY_STATUS (R385). -/
def execSupplyStatusWrite (v : Word32) (s : State) : Host.Outcome State Fault Refusal :=
  .next (if s.barOpen then s.regPut 0x210 v.toNat 0xFFFFFFFF else s)

/-- W1C write to HOLD_STATUS (R385). -/
def execHoldStatusWrite (v : Word32) (s : State) : Host.Outcome State Fault Refusal :=
  .next (if s.barOpen then s.regPut 0x300 v.toNat 0xFFFFFFFF else s)

/-- A host read of BEAT_NUMBER_LO (R240). -/
def execBeatNumberLoRead (s : State) : Host.Outcome State Fault Refusal :=
  .next (if s.barOpen then s.latchBeat.emit (.data (natLe 4 (s.regWord 0x200)) false) else s)

/-- Write to RESET_CTL (R404, R479). -/
def execWarmReg (v : Word32) (s : State) : Host.Outcome State Fault Refusal :=
  .next (if s.barOpen then s.regPut 0x100 v.toNat 0xFFFFFFFF else s)

/-- Any other host write to BAR0 (R402, R409): at most 4 KiB, within one 4 KiB block of the 512 KiB. -/
def execRegisterWrite (off : Nat) (data : List Byte) (s : State) : Host.Outcome State Fault Refusal :=
  guardUnit (bar0Ok off data.length) (
    if s.barOpen then s.bar0Write off data else s)

/-- Does the HIF take an access of BAR2 now: one that meets DRAM while it is closed stays on the link (R241, log 112). -/
def State.bar2Open (s : State) : Bool := s.barOpen && s.dram.trained && !s.dram.closed

/-- A host read through BAR2 (R406 to R408). -/
def execBar2Read (off n : Nat) (s : State) : Host.Outcome State Fault Refusal :=
  guardUnit (bar2Ok off n) (if s.bar2Open then s.bar2Get off n else s)

/-- A host write through BAR2 (R406 to R408): no tier state changes. -/
def execBar2Write (off : Nat) (data : List Byte) (s : State) : Host.Outcome State Fault Refusal :=
  guardUnit (bar2Ok off data.length) (
    if s.bar2Open then s.dramWrite (cellsOf (s.windowAddr off) false data) else s)

/-! ## I3C -/

/-- SETDASA from the static address 0x3A (R418). -/
def execI3cSetdasa (static dyn : BitVec 7) (s : State) : Host.Outcome State Fault Refusal :=
  .next (if s.live && static == 0x3A then { s with i3c := { s.i3c with dynAddr := some dyn } } else s)

/-- Where an I3C offset leads: mailbox 63 below 0x1000, then the registers up to BAR0 0x3FF (R418). -/
def State.i3cByte (s : State) (o : Nat) (v : Byte) : State :=
  if 0x1000 ≤ o && o < 0x1400 then
    s.regPut (o - 0x1000 - o % 4) (place v.toNat (8 * (o % 4))) (place 0xFF (8 * (o % 4)))
  else s

/-- Data bytes of a private write from an offset: those for mailbox 63 are one write (log 28). -/
def State.i3cData (s : State) (o : Nat) (data : List Byte) : State :=
  let inBox := min data.length (0x1000 - min 0x1000 o)
  let s := s.mboxWrite 63 o (data.take inBox)
  let rest := data.drop inBox
  (List.range rest.length).foldl (fun s i => s.i3cByte (o + inBox + i) (rest.getD i 0)) s

/-- A private write: a 2-byte offset, then data (R418). -/
def execI3cPrivateWrite (data : List Byte) (s : State) : Host.Outcome State Fault Refusal :=
  .next (
    if s.live && s.i3c.dynAddr.isSome && decide (2 ≤ data.length) then
      let o := leNat (data.take 2)
      ({ s with i3c := { s.i3c with offset := o } }).i3cData o (data.drop 2)
    else s)

/-- Width in bytes of the register that holds an I3C offset: CHIME and MBOX_OWNED registers have 8. -/
def i3cWidth (o : Nat) : Nat := if o / 8 = 0x1020 / 8 || o / 8 = 0x1040 / 8 || o / 8 = 0x1048 / 8 then 8 else 4

/-- One byte read over I3C; a multi-byte register is latched when its lowest byte is read (R418). -/
def State.i3cGet (s : State) (o : Nat) : State × Byte :=
  if o < 0x1000 then (s, (s.box 63).byte o)
  else if o < 0x1400 then
    let w := i3cWidth o
    let base := o - o % w
    let r := base - 0x1000
    let live := natLe 4 (s.regWord r) ++ (if w = 8 then natLe 4 (s.regWord (r + 4)) else [])
    if o % w = 0 then
      let s := if r = 0x200 then s.latchBeat else s
      ({ s with i3c := { s.i3c with latch := live, latchAt := base } }, live.getD 0 0)
    else if s.i3c.latchAt = base then (s, s.i3c.latch.getD (o % w) 0)
    else (s, live.getD (o % w) 0)
  else (s, 0)

/-- `n` bytes from the port's offset, which advances by one for each (R418). -/
def State.i3cGets : Nat → State → List Byte → State × List Byte
  | 0, s, acc => (s, acc)
  | n + 1, s, acc =>
    let (s', v) := s.i3cGet s.i3c.offset
    State.i3cGets n { s' with i3c := { s'.i3c with offset := (s.i3c.offset + 1) % 65536 } } (acc ++ [v])

/-- A private read (R418). -/
def execI3cPrivateRead (n : Nat) (s : State) : Host.Outcome State Fault Refusal :=
  .next (
    if s.live && s.i3c.dynAddr.isSome then
      let r := s.i3cGets n []
      r.1.emit (.data r.2 false)
    else s)

end Sys2Proof.Machine
end

