-- ==== Sys2Proof/Machine/Links.lean ====
section
/-!
DEFINITION. The link rows: flits, retry, retraining and lane failure (R270 to R290).
-/
namespace Sys2Proof.Machine

def execDataFlit (p : Port) (raw : List Byte) (s : State) : Host.Outcome State Fault Refusal :=
  .next (s.dataFlit p raw).settleLeft

def execIdleFlit (p : Port) (raw : List Byte) (s : State) : Host.Outcome State Fault Refusal :=
  .next (s.idleFlit p raw).settleLeft

def execNak (p : Port) (raw : List Byte) (s : State) : Host.Outcome State Fault Refusal :=
  .next (s.nakFlit p raw).settleLeft

/-- 20 µs with flits in the retry buffer and no ACK advance start a retrain (R279). -/
def execAckStall (p : Port) (t : Nat) (s : State) : Host.Outcome State Fault Refusal :=
  .next (
    let s := s.at t
    let x := s.port p
    if x.trained && x.train.isNone && !x.retry.isEmpty && decide (20000 ≤ s.now - x.ackAt) then s.retrain p 2 else s)

/-- A lane loses clock lock: a retrain, or a failed lane at the second loss within 1,024 beats (R279, R280). -/
def execLaneLockLoss (p : Port) (lane : Fin 8) (s : State) : Host.Outcome State Fault Refusal :=
  .next (
    let x := s.port p
    if !x.trained || !x.serves lane.val then s
    else
      let twice := x.lockLoss.any (fun e => e.1 == lane.val && decide (s.beat.num - e.2 ≤ 1024))
      let s := s.setPort p { x with
        lockLoss := (lane.val, s.beat.num) :: x.lockLoss.filter (fun e => e.1 != lane.val) }
      if twice then s.laneFail p lane.val else s.retrain p 3)

/-- A retrain ends: the link resumes from the last ACK; a lane that failed degrades the port or takes it down (R279
to R281). -/
def execRetrainComplete (p : Port) (failed : Option (Fin 8)) (s : State) : Host.Outcome State Fault Refusal :=
  .next (
    let x := s.port p
    if !x.trained || x.train.isNone then s
    else match failed.filter (fun l => x.serves l.val) with
      | some lane => s.laneFail p lane.val
      | none =>
        let s := s.setPort p { x with train := none, ackAt := s.now, resends := 0 }
        let s := s.resendAll p
        (s.pumpAll p).settleLeft)

end Sys2Proof.Machine
end

