-- ==== Sys2Proof/Machine/Power.lean ====
section
/-!
DEFINITION. The supply, hold, power and heat rows (R373 to R396).
-/
namespace Sys2Proof.Machine

/-! ## Supplies -/

/-- A switch or a return of a pair while the device runs: logged by the supply monitor, with a chime (R373, R414). -/
def State.switchEvent (s : State) (code d0 : Nat) : State :=
  if s.live then (s.logEvent 5 0 code d0 0).eventChime else s

/-- A pair moves to its backup rail (R373). -/
def execSupplySwitch (p : Pair) (t : Nat) (s : State) : Host.Outcome State Fault Refusal :=
  .next (
    let s := s.at t
    let i := Pair.idx p
    if s.sup.onBackup.getD i false then s
    else
      let s := { s with sup := { s.sup with
        onBackup := s.sup.onBackup.set i true, backupFrom := s.sup.backupFrom.set i (some s.now), switchSeen := true } }
      (s.switchEvent 0x90 i).noteSupply)

/-- The pair's load returns to the main rail (R373). -/
def execSupplyReturn (p : Pair) (t : Nat) (s : State) : Host.Outcome State Fault Refusal :=
  .next (
    let s := s.at t
    let i := Pair.idx p
    if !(s.sup.onBackup.getD i false) then s
    else
      let s := { s with sup := { s.sup with
        onBackup := s.sup.onBackup.set i false, backupFrom := s.sup.backupFrom.set i none, switchSeen := true } }
      (s.switchEvent 0x91 i).noteSupply)

/-- A pair has carried its load on backup for 1 ms: hold (R374). -/
def execBackupTime (p : Pair) (t : Nat) (s : State) : Host.Outcome State Fault Refusal :=
  .next (
    let s := s.at t
    match s.sup.backupFrom.getD (Pair.idx p) none with
    | some x => if 1000000 ≤ s.now - x then s.enterHold 3 none else s
    | none => s)

/-- PWRGD_MAIN is deasserted: hold (R375). -/
def execPwrgd (t : Nat) (s : State) : Host.Outcome State Fault Refusal :=
  .next (
    let s := s.at t
    (({ s with cp := { s.cp with pwrgd := false } }).noteSupply).enterHold 1 none)

/-- PWRGD_MAIN is asserted: the stability wait of a hold, or start-up, begins (R383, R483). -/
def execPwrgdRise (t : Nat) (s : State) : Host.Outcome State Fault Refusal :=
  .next (
    let s := s.at t
    (({ s with cp := { s.cp with pwrgd := true } }).noteSupply).beginStart)

/-- A rail without a backup below 85 % of nominal for 2 µs: hold (R375). -/
def execRail (r : Rail) (t : Nat) (s : State) : Host.Outcome State Fault Refusal :=
  .next (
    let s := s.at t
    let s := { s with sup := { s.sup with
      railsOut := if s.sup.railsOut.contains r then s.sup.railsOut else r :: s.sup.railsOut } }
    s.noteSupply.enterHold 2 none)

/-- A hold of cause 1 to 3 ends after 10 ms of stable supplies (R383). -/
def execHoldAutoExit (t : Nat) (s : State) : Host.Outcome State Fault Refusal :=
  .next (
    let s := s.at t
    if s.live && s.cp.phase == 5 && s.sup.cause != 4 && s.cp.exiting.isNone && s.supplyStable then s.beginExit s.now else s)

/-- The exit sequence ends, 22 ms after the stability wait (Table 16.7), with what training found. -/
def execHoldExitComplete (modules rate : Nat) (ports : List (Port × PortTrain)) (t : Nat) (s : State) : Host.Outcome State Fault Refusal :=
  guardUnit (ucieOk modules rate) (
    let s := s.at t
    if s.live && s.cp.phase == 5 && s.cp.exiting.any (fun x => decide (x + 22000000 ≤ s.now)) then s.leaveHold modules rate ports
    else s)

/-! ## Droop and sags -/

/-- Code of a rail in event data (log 30): rails 0 to 6, main rails 8 to 10, backup rails 16 to 18. -/
def AnyRail.code : AnyRail → Nat
  | .rail r => Rail.idx r
  | .main p => 8 + Pair.idx p
  | .backup p => 16 + Pair.idx p

/-- A rail has stayed below its sag level for 20 ns: a sag begins (R387). -/
def execSupplySag (r : AnyRail) (t : Nat) (s : State) : Host.Outcome State Fault Refusal :=
  .next (
    let s := s.at t
    if s.sup.sags.any (fun g => g.1 == r) then s
    else { s with sup := { s.sup with sags := s.sup.sags ++ [(r, s.now, s.beatNo, s.phase)] } })

/-- Put the stamp of the last event record at a beat and phase. -/
def State.stampLast (s : State) (beat phase : Nat) : State :=
  match s.ev.recs.getLast? with
  | none => s
  | some e => { s with ev := { s.ev with recs := s.ev.recs.dropLast ++ [{ e with beat := beat, phase := phase }] } }

/-- A sag's one event (R387): at most 64 per beat, further ones counted. -/
def State.logSag (s : State) (r : AnyRail) (mv : Nat) (from_ beat phase : Nat) : State :=
  if 64 ≤ s.ev.sags then s.count 0 8 1
  else
    let s := { s with ev := { s.ev with sags := s.ev.sags + 1 }, sup := { s.sup with sagSeen := true } }
    (s.logEvent 5 0 0x92 (place (AnyRail.code r) 16 + mv) (s.now - from_)).stampLast beat phase

/-- A rail has stayed above its sag level for 1 µs: the sag ends (R387), and the rail is in range again (R383); below its
level for 1 µs before that, it was out of range and breaks the stability wait. -/
def execSagEnd (r : AnyRail) (mv t : Nat) (s : State) : Host.Outcome State Fault Refusal :=
  .next (
    let s := s.at t
    let s := match s.sup.sags.find? (fun g => g.1 == r) with
      | none => s
      | some (_, from_, beat, phase) =>
        let s := { s with
          sup := { s.sup with sags := s.sup.sags.filter (fun g => g.1 != r) },
          cp := { s.cp with stableAt :=
            if AnyRail.single r && decide (2000 ≤ s.now - from_) then none else s.cp.stableAt } }
        if s.live then s.logSag r mv from_ beat phase else s
    let s := match r with
      | .rail x => { s with sup := { s.sup with railsOut := s.sup.railsOut.filter (· != x) } }
      | _ => s
    s.noteSupply)

/-- Frequency in MHz of a domain whose VCORE reads `mv`: 3.0 GHz at VMIN - 25 mV, linear to 2.2 GHz 60 mV below (R386). -/
def stretchMhz (vmin mv : Nat) : Nat :=
  let d := min 60 (vmin - 25 - mv)
  3000 - 800 * d / 60

/-- Cycles that the domain has run stretched join the core's STRETCH counter (Table 18.4). -/
def State.countStretch (s : State) (c : Nat) : State :=
  let k := s.core c
  if k.clock < 3000 then s.count 3 (4 * c + 3) ((s.now - k.stretchAt) * k.clock / 1000) else s

/-- A droop detector's crossing stretches the core's clock (R386). -/
def execClockStretch (c : Fin 64) (mv : Nat) (s : State) : Host.Outcome State Fault Refusal :=
  .next (
    if !s.live || s.cp.phase == 5 || decide (s.pwr.vmin ≤ mv + 25) then s
    else (s.countStretch c.val).updCore c.val (fun k => { k with clock := stretchMhz s.pwr.vmin mv, stretchAt := s.now }))

/-- VCORE above the threshold for 64 cycles: full rate (R386). -/
def execClockFullRate (c : Fin 64) (s : State) : Host.Outcome State Fault Refusal :=
  .next (if s.live then (s.countStretch c.val).updCore c.val (fun k => { k with clock := 3000 }) else s)

/-! ## Load shaping and caps -/

/-- The duty factor in force: the lower of the cap factor and the thermal factor (R394). -/
def State.setDuty (s : State) : State :=
  let d := min s.pwr.thermDuty s.pwr.capDuty
  { s with pwr := { s.pwr with duty := d, dutyMin := min s.pwr.dutyMin d } }

/-- The load floor in mW: FLOOR_PCT of the mean draw of the previous 16 beats, at most the power cap (R389). -/
def State.floor (s : State) : Nat :=
  let m := s.pwr.means
  if m.isEmpty then 0
  else min (s.policy 0x0011 * ((m.foldl (· + ·) 0) / m.length) / 100) (s.policy 0x0012 * 1000)

/-- One sample of the power controller (R388 to R393): draw in mW, VCORE current in mA, and both as means over 10 µs. The
duty factor moves one step of 1/256 at a sample (log 35). -/
def execPowerSample (draw current avg cavg : Nat) (s : State) : Host.Outcome State Fault Refusal :=
  .next (
    if !s.live || s.cp.phase = 5 then s
    else
      let w := s.pwr
      let last := (draw :: w.last).take 11
      let old := last.getD 10 (last.getLastD draw)
      let limit := s.policy 0x0010 * 1000
      let overP := decide (s.policy 0x0012 * 1000 < avg)
      let overI := decide (s.policy 0x0013 * 1000 < cavg)
      let rise := decide (old + limit < draw)
      let fall := decide (draw + limit < old)
      let lower := overP || overI || rise
      let cap := if lower then max 64 (w.capDuty - 1) else min 256 (w.capDuty + 1)
      let pwr := overP || (w.pwr && decide (cap < 256))
      let cur := overI || (w.cur && decide (cap < 256))
      let throttled := pwr || cur || w.therm
      let ballast := !throttled && (fall || decide (draw < s.floor))
      let s := { s with pwr := { w with
        capDuty := cap, pwr := pwr, cur := cur, ramp := rise || fall, ballast := ballast, draw := w.draw,
        sum := w.sum + draw, csum := w.csum + current, samples := w.samples + 1, last := last } }
      let s := s.setDuty
      if (overP && !w.pwr) || (overI && !w.cur) then
        ({ s with sup := { s.sup with throtSeen := true } }).logOnce 0 0 0x95 s.pwr.duty 0 0
      else s)

/-- One sample of the logic sensors, in 0.01 °C (R394, R450): the thermal factor falls a step while the hottest is above the
throttle point, and rises a step at or below it (log 35). -/
def execThermalSample (temp : Nat) (s : State) : Host.Outcome State Fault Refusal :=
  .next (
    if !s.live || s.cp.phase = 5 then s
    else
      let lim := s.field 0x0140 * 100
      let w := s.pwr
      let lower := decide (lim < temp) || (decide (temp = lim) && !w.therm)
      let d := if lower then max 64 (w.thermDuty - 1) else min 256 (w.thermDuty + 1)
      let therm := lower || (w.therm && decide (d < 256))
      let s := ({ s with pwr := { w with
        tlogic := temp, thermDuty := d, therm := therm, ballast := w.ballast && !therm } }).setDuty
      if lower && !w.therm then
        ({ s with sup := { s.sup with throtSeen := true } }).logOnce 0 0 0x96 s.pwr.duty temp 0
      else s)

/-- A logic sensor at 105 °C (none) or a stack at 95 °C trips the device (R395): the record goes to bank J at once, the
ports and UCIe go dark, and every clock stops. -/
def execThermtrip (stack : Option Nat) (t : Nat) (s : State) : Host.Outcome State Fault Refusal :=
  guardUnit (stack.all stackOk) (
    let s := s.at t
    if !s.live then s
    else
      let s := s.putRec (.trip (s.img.rseq + 1) true)
      { s with
        cp := { s.cp with tripped := true },
        ports := allPorts.map (fun p => (Port.idx p, (s.port p).held p)),
        hif := { s.hif with up := false } })

end Sys2Proof.Machine
end

