-- ==== Sys2Proof/Machine/Reduction.lean ====
section
/-!
DEFINITION. Chunks of the router's reductions: arrival and tail check (R324, R330 to R333), combining in router mode (R322)
and in spill mode (R328), acknowledgements and resends (R331).
-/
namespace Sys2Proof.Machine

/-- Discard a chunk, acknowledgement or refusal outside its epoch (R333). -/
def State.chunkDiscard (s : State) (e : Nat) : State := (s.absorbed e).count 0 12 1

/-- The input position at which a chunk of a member comes in: a child's position going up, 0 from the parent going down;
none for a member that is no neighbour in the tree. -/
def PNode.arrives (n : PNode) (down : Bool) (src : Nat) : Option Nat :=
  if down then (if !n.root && n.parent == src then some 0 else none)
  else (n.kids.find? (fun k => k.1 == src)).map Prod.snd

/-- The tail check (R330): the CRC over chunk header and data. -/
def tailOk (c : ChunkMsg) : Bool :=
  crc32c (chunkHdr c.epoch c.use c.chunk c.src c.data.length ++ c.data) == c.crc

/-- The chunk goes where its direction sends it: down to the children and the OUT buffer, in spill mode by way of the spill area
(R328), or in among the inputs. -/
def State.chunkUse (s : State) (r : CarRec) (c : ChunkMsg) (pos : Nat) : State :=
  if c.down then
    match s.inst c.pop c.use with
    | none => s
    | some i =>
      if i.delivered.contains c.chunk then s
      else
        let s := if i.router then s else s.spillPut r c.pop c.use pos c.chunk c.data c.poison
        (s.passDown r c.pop c.use c.chunk c.data c.poison).release r c.pop c.use
  else s.addInput r c.pop c.use ⟨c.chunk, pos, c.data, c.poison⟩

/-- A knell for a chunk whose tail check fails for good (R331, R332). -/
def State.tailFail (s : State) (c : ChunkMsg) : State := (s.logCp 0x72 c.pop c.use).raiseKnell 0x06 0x72 0 0

/-- Arguments of CHUNK_ACK and CHUNK_NAK (R331). -/
def State.chunkArgs (s : State) (c : ChunkMsg) : List Nat := [c.pop, c.use, c.chunk, b2n c.down, s.selfIdx, c.epoch]

/-- A chunk of the epoch, its instance claimed. Under commit-on-tail it is used after its check and acknowledged, or refused
once. Under early use a node in router mode has sent or delivered what the chunk gives before its tail fails the check and
raises the knell (R332); in spill mode the check comes first (R328). -/
def State.chunkIn (s : State) (r : CarRec) (c : ChunkMsg) (pos : Nat) : State :=
  match s.inst c.pop c.use with
  | none => s
  | some i =>
    if (r.pnode c.pop).o.early then
      if tailOk c then s.chunkUse r c pos
      else if i.router then ((s.chunkUse r c pos).combine r c.pop c.use c.chunk 0 false).tailFail c
      else s.tailFail c
    else if tailOk c then (s.notice "CHUNK_ACK" c.src (s.chunkArgs c)).chunkUse r c pos
    else if i.nacked.contains (c.chunk, c.src, c.down) then s.tailFail c
    else
      let s := s.updInst c.pop c.use (fun i => { i with nacked := (c.chunk, c.src, c.down) :: i.nacked })
      (s.logCp 0x71 c.pop c.use).notice "CHUNK_NAK" c.src (s.chunkArgs c)

/-- A chunk received whole from the neighbour `src` of its tree; one that names no plan op, or comes from no neighbour there, is
discarded and counted as one outside its epoch is (R333, R344, log 109). It comes whole (log 125). -/
def execChunk (c : ChunkMsg) (s : State) : Host.Outcome State Fault Refusal :=
  .next (if !(s.live && s.cp.phase = 4) then s else match s.memberRec with
    | none => s.chunkDiscard c.epoch
    | some r =>
      if !s.runsEpoch c.epoch then s.chunkDiscard c.epoch
      else if planNops r.plan ≤ c.pop then s.chunkDiscard c.epoch
      else match (r.pnode c.pop).arrives c.down c.src with
        | none => s.chunkDiscard c.epoch
        | some pos => ((s.absorbed c.epoch).claim r c.pop c.use).chunkIn r c pos)

/-- The router combines a chunk whose inputs are all there (R322); single-bit errors of its memory are corrected, a double-bit one
poisons (R334). -/
def execChunkCombine (pop use k : Nat) (upset : MemUpset) (s : State) : Host.Outcome State Fault Refusal :=
  .next (match s.memberRec, s.inst pop use with
    | some r, some i => if s.running && i.router then s.combine r pop use k upset.fixed upset.bad else s
    | _, _ => s)

/-- Write bytes of a service op into the spill buffer of the spill core (R328). -/
def State.spillBufPut (s : State) (core buf pos : Nat) (data : List Byte) : State :=
  let b := bufOf (s.core core) buf
  let at_ := b.base + Config.spillSlot pos % (max 1 (b.size - data.length))
  (s.noteWritten core b).storeWrite core ((cellsOf at_ false data).filter (fun c => decide (c.1 < b.base + b.size)))

/-- May the spill core run a service op of this kind now: between two ops of the engine concerned (R328). -/
def State.spillCoreFree (s : State) (core kind : Nat) : Bool :=
  kind == 4 || (Table.get none (s.core core).engs (if kind = 3 then 5 else 2)).isNone

/-- The spill core combines the chunk that was completed first among those that wait, one at a time, from what the spill area
holds (R328); it waits while DRAM is closed (R241). -/
def execSpillService (pop use k : Nat) (s : State) : Host.Outcome State Fault Refusal :=
  .next (match s.memberRec, spillDecl s.pat.image with
    | some r, some (core, buf) =>
      let n := r.pnode pop
      if !s.running || s.dram.closed || s.rt.ready.head? != some (pop, use, k) || !s.spillCoreFree core n.o.kind then s
      else
        let s : State := { s with rt := { s.rt with ready := s.rt.ready.tail } }
        let ins := n.inputs.map (fun p => (p, s.spillGet r pop use p k))
        let s := ins.foldl (fun s x => s.dramNoteRange (spillAt r pop use x.1 k) x.2.1.length) s
        let data := combineChunks n.o.kind (ins.map (fun x => x.2.1))
        let bad := (ins.flatMap (fun x => x.2.2)).foldl NatSet.insert []
        let s := if n.o.kind = 4 then s
          else
            let s := ins.foldl (fun s x => s.spillBufPut core buf x.1 x.2.1) s
            (s.spillBufPut core buf 65535 data).spillPut r pop use 6 k data bad
        s.combineOf r pop use k (ins.map Prod.snd) false
    | _, _ => s)

/-- A chunk that this node sent passed its tail check (R331): its copy is retained no longer. -/
def execChunkAck (x : ChunkRef) (s : State) : Host.Outcome State Fault Refusal :=
  .next (if !(s.live && s.cp.phase = 4) then s else match s.memberRec with
    | none => s.count 0 12 1
    | some r =>
      if !s.runsEpoch x.epoch then s.count 0 12 1
      else
        (s.updInst x.pop x.use (fun i => { i with
          outs := i.outs.filter (fun o => !(o.k == x.chunk && o.down == x.down && o.dest == x.src)) })).release r x.pop x.use)

/-- Resend a chunk once from the retained copy (R331). -/
def State.resendChunk (s : State) (r : CarRec) (x : ChunkRef) : State :=
  match ((s.inst x.pop x.use).map Inst.outs).getD [] |>.find? (fun o => o.k == x.chunk && o.down == x.down && o.dest == x.src) with
  | none => s
  | some o =>
    if o.resent then s
    else
      let s := s.updInst x.pop x.use (fun i => { i with
        outs := i.outs.map (fun p => if p == o then { p with resent := true } else p) })
      s.sendChunk r x.pop x.use x.chunk x.down x.src o.data o.poison

/-- A chunk that this node sent failed its tail check (R331). -/
def execChunkNak (x : ChunkRef) (s : State) : Host.Outcome State Fault Refusal :=
  .next (if !(s.live && s.cp.phase = 4) then s else match s.memberRec with
    | none => s.count 0 12 1
    | some r => if s.runsEpoch x.epoch then s.resendChunk r x else s.count 0 12 1)

end Sys2Proof.Machine
end

