-- ==== Sys2Proof/Machine/Remote.lean ====
section
/-!
DEFINITION. What arrives from other members outside the router's own work: BULK messages (R301, R302) and control messages
that carry a signal (R208, R209).
-/
namespace Sys2Proof.Machine

/-- A message cannot be written yet: its page is on its way to DEVICE, or DRAM is closed (Table 7.6, R241). -/
def State.messageWaits (s : State) (d : MsgDesc) (n : Nat) : Bool :=
  (d.space == 4 && s.pagesWait d.addr n) || ((d.space == 3 || d.space == 4) && n != 0 && s.dram.closed)

/-- Pages in HOST that a message waits for: under the halt policy, or for a re-formation copy (Table 8.8, R302, log 103). -/
def State.messagePages (s : State) (d : MsgDesc) (n : Nat) : List Nat :=
  if d.space = 4 && (if d.epoch = reformEpoch then s.mb.jobs.any (fun j => j.kind == .shrink) else s.runsEpoch d.epoch && s.ep.halt) then
    s.pagesHome d.addr n
  else []

/-- A BULK message, whole: written and its signal applied, discarded outside its epoch, or a REMOTE_RANGE fault (R302); a
re-formation copy may be the last that a SHRINK awaits (R312). One that has to wait stays with its sender's port. -/
def execMessage (p : Port) (d : MsgDesc) (data : List Byte) (poison : List Nat) (t : Nat) (s : State) : Host.Outcome State Fault Refusal :=
  .next (
    let s := s.at t
    if !(s.live && s.cp.phase = 4 && (s.port p).trained) || s.messageWaits d data.length then s
    else
      let home := s.messagePages d data.length
      let (w, ok) := s.promoteAll home
      if !home.isEmpty && ok then w else (s.receive (Port.idx p) d data poison).finishReform)

/-- A signal without data (R208): applied under R56, or discarded while no step of its epoch runs (R209). -/
def execControlSignal (p : Port) (d : MsgDesc) (t : Nat) (s : State) : Host.Outcome State Fault Refusal :=
  .next (
    let s := s.at t
    if !(s.live && s.cp.phase = 4 && (s.port p).trained) then s
    else if !s.runsEpoch d.epoch then s.count 1 (16 * Port.idx p + 7) 1
    else match msgSig d with
      | some g => s.remoteSig g d.src (Port.idx p)
      | none => s)

end Sys2Proof.Machine
end

