-- ==== Sys2Proof/Machine/Sequencer.lean ====
section
/-!
DEFINITION. The core sequencer: dispatch in list order (R64), the control ops of Table 2.7, the gong (R67 to R69),
work-counter arming (R94, R95), completion (R66) and the wait limit (R71).
-/
namespace Sys2Proof.Machine

/-! ## Reading the op list -/

/-- Nothing of the core is queued or runs (R63, R66, R67). -/
def Core.drained (k : Core) : Bool :=
  (List.range 7).all (fun e => (Table.get [] k.queues e).isEmpty && (Table.get none k.engs e).isNone)

/-- May the CSQ of core c dispatch. -/
def State.csqReady (s : State) (c : Nat) : Bool :=
  s.coreLive c && (s.core c).csq == .running && decide ((s.core c).pc < (ctlTable (s.core c) 0).2)

/-- The op that core c dispatches next. -/
def nextOp (k : Core) : List Nat := opWords k k.pc

/-- The CSQ reads store bytes for an op of fault class fc (R48, R228): the flags say that the knell was raised and
that a double error stands in the bytes. -/
def State.csqRead (s : State) (c fc id : Nat) (addrs : List Nat) : State × Bool × Bool :=
  let k := s.core c
  let lanes := addrs.foldl (fun l a => NatSet.insert l (a / 8)) []
  let s := s.count 3 (4 * c) (lanes.filter (fun l => popcount (Table.get 0 k.flips l) == 1)).length
  match lanes.find? (fun l => 2 ≤ popcount (Table.get 0 k.flips l)) with
  | some l => match s.faultAct fc 0x04 false with
    | .knell cause => (s.faultKnell c 0x04 id (8 * l) cause, true, true)
    | _ => ((s.logFault c 0x04 id (8 * l)).setPoison, false, true)
  | none =>
    if addrs.any (fun a => NatSet.has k.poison (a / 64)) then
      match s.faultAct fc 0x21 false with
      | .knell cause => (s.faultKnell c 0x21 id 0 cause, true, false)
      | _ => ((s.logFault c 0x21 id 0).setPoison, false, false)
    else (s, false, false)

/-- Take the next op off the list when it is one of this row's: it is counted (Table 18.4), its index kept for the
snare (Table 14.8), and the checks of R61 made (R70). `k` continues with the op's words. -/
def State.takeOp (s : State) (c : Nat) (mine : List Nat → Bool) (go : State → List Nat → State) : State :=
  let k := s.core c
  let w := nextOp k
  if s.csqReady c && mine w then
    match s.csqRead c (opFclass w) (opId w) ((List.range 64).map (fun i => (ctlTable k 0).1 + 64 * k.pc + i)) with
    | (s, true, _) => s
    | (s, false, _) =>
      let s := (s.count 3 (4 * c + 2) 1).updCore c (fun k => { k with lastOp := k.pc })
      match r61 k w with
      | some chk => s.faultKnell c 0x05 (opId w) chk 0x01
      | none => go s w
  else s

/-- A control op with this code (Table 2.7). -/
def isCtl (code : Nat) (w : List Nat) : Bool := opEngine w == 0 && opCode w == code

/-- Go on to the op after this one. -/
def Core.advance (k : Core) : Core := { k with pc := k.pc + 1 }

/-! ## Dispatch (R64) -/

/-- An op of an engine whose queue of 8 has room, or one that no engine can take. -/
def dispatches (k : Core) (w : List Nat) : Bool :=
  if opEngine w = 0 then decide (6 ≤ opCode w)
  else decide (7 ≤ opEngine w) || decide ((Table.get [] k.queues (opEngine w)).length < 8)

/-- The bound registers as dispatch captures them (R59). -/
def Core.bnds (k : Core) : List Nat := (List.range 32).map (Table.get 0 k.bnd)

def Core.enqueue (k : Core) (now : Nat) (w : List Nat) : Core :=
  let e := opEngine w
  let q := Table.get [] k.queues e
  let head := q.isEmpty && (Table.get none k.engs e).isNone
  { k.advance with
    queues := Table.set [] k.queues e (q ++ [⟨k.pc, w, k.bnds⟩]),
    headAt := if head then Table.set 0 k.headAt e now else k.headAt }

def execDispatch (c : Fin 64) (s : State) : Host.Outcome State Fault Refusal :=
  .next (s.takeOp c (dispatches (s.core c)) (fun s w => s.updCore c (fun k => k.enqueue s.now w)))

/-! ## Control ops (Table 2.7) -/

def execNop (c : Fin 64) (s : State) : Host.Outcome State Fault Refusal :=
  .next (s.takeOp c (isCtl 0) (fun s _ => s.updCore c Core.advance))

def execEnd (c : Fin 64) (s : State) : Host.Outcome State Fault Refusal :=
  .next (s.takeOp c (isCtl 1) (fun s _ => s.updCore c (fun k => { k.advance with csq := .ended })))

def execGong (c : Fin 64) (s : State) : Host.Outcome State Fault Refusal :=
  .next (s.takeOp c (isCtl 2) (fun s _ => s.updCore c (fun k => { k with csq := .gongWait })))

def execBndset (c : Fin 64) (s : State) : Host.Outcome State Fault Refusal :=
  .next (s.takeOp c (isCtl 3) (fun s w => s.updCore c (fun k =>
    { k.advance with bnd := Table.set 0 k.bnd (opImm w 0 % 32) (opImm w 1) })))

def execBndload (c : Fin 64) (s : State) : Host.Outcome State Fault Refusal :=
  .next (s.takeOp c (isCtl 4) (fun s _ => s.updCore c (fun k => { k with csq := .bndWait })))

/-- The core is live and waits in this state with every earlier op complete. -/
def State.drainedIn (s : State) (c : Nat) (st : Csq) : Bool :=
  s.coreLive c && (s.core c).csq == st && (s.core c).drained

/-- The word of a BNDLOAD is read and written to its register (R63); a word with a double error is free (log 8). -/
def execBoundRegisterLoad (c : Fin 64) (s : State) : Host.Outcome State Fault Refusal :=
  .next (
    if s.drainedIn c .bndWait then
      let k := s.core c
      let w := nextOp k
      match s.csqRead c (opFclass w) (opId w) ((List.range 4).map (opImm w 1 + ·)) with
      | (s, true, _) => s
      | (s, false, ue) =>
        let v := if ue then leNat (s.freeBytes 4) else k.store.readLe (opImm w 1) 4
        (if ue then s.drew 4 else s).updCore c (fun k =>
          { k.advance with bnd := Table.set 0 k.bnd (opImm w 0 % 32) v, csq := .running })
    else s)

/-- Count and rescue factor of a WCTR_ARM (R94). -/
def armArgs (k : Core) (w : List Nat) : Nat × Nat :=
  let i2 := opImm w 2
  (if bitAt i2 31 then Table.get 0 k.bnd (fld i2 12 8) else opImm w 1, fld i2 3 0)

def execWctrArm (c : Fin 64) (s : State) : Host.Outcome State Fault Refusal :=
  .next (s.takeOp c (isCtl 5) (fun s w =>
    let (n, f) := armArgs (s.core c) w
    let x := opImm w 0 % 64
    if 65536 < n then s.faultKnell c 0x01 (opId w) n 0x01
    else match Table.get none s.fab.ctrs x with
      | none => ({ s with fab := { s.fab with ctrs := Table.set none s.fab.ctrs x (some ⟨n, f, 0, [], [], [], []⟩) } }).updCore c
          Core.advance
      | some p => if p.count = n ∧ p.factor = f then s.updCore c Core.advance else s.faultKnell c 0x01 (opId w) n 0x01))

/-! ## The gong (R67 to R69) -/

/-- Identifier at which core c has arrived. -/
def State.gongOf (s : State) (c : Nat) : Option Nat := Table.get none s.fab.gong c

/-- A core arrives; where identifiers disagree, each arrived core raises GONG_MISMATCH, as class 3 (R69, R70). -/
def execGongArrival (c : Fin 64) (s : State) : Host.Outcome State Fault Refusal :=
  .next (
    if s.drainedIn c .gongWait then
      let id := opImm (nextOp (s.core c)) 0
      let s := { s with fab := { s.fab with gong := Table.set none s.fab.gong c (some id) } }
      let s := s.updCore c (fun k => { k with csq := .atGong })
      let there := (List.range 64).filter (fun d => (s.gongOf d).isSome)
      if there.any (fun d => s.gongOf d != some id) then
        let s := there.foldl (fun s d => s.logFault d 0x06 (opId (nextOp (s.core d))) ((s.gongOf d).getD 0)) s
        s.raiseKnell 0x01 0x06 1 c
      else s
    else s)

/-- Every participating core has arrived: dispatch resumes at the op after each GONG (R67). -/
def execGongRelease (s : State) : Host.Outcome State Fault Refusal :=
  .next (
    let ps := s.participants
    if s.running && s.cp.phase == 4 && !ps.isEmpty && ps.all (fun c => (s.core c).csq == .atGong) then
      let s := { s with fab := { s.fab with gong := [] } }
      ps.foldl (fun s c => s.updCore c (fun k => { k.advance with csq := .running })) s
    else s)

/-! ## Completion and the wait limit -/

/-- END has been dispatched and every engine queue is empty: the core reports to the CP (R66). -/
def execCoreCompletion (c : Fin 64) (s : State) : Host.Outcome State Fault Refusal :=
  .next (
    if s.drainedIn c .ended && !(s.core c).done then s.updCore c (fun k => { k with done := true, idleAt := s.now })
    else s)

/-- Time of [a, b] that lies in the pauses of R232. -/
def pausedNs (ps : List (Nat × Nat)) (a b : Nat) : Nat :=
  (ps.map (fun p => min p.2 b - max p.1 a)).foldl (· + ·) 0

/-- Since when an engine's op waits with its waits, or its draw from an unarmed counter, unsatisfied (R71, R96). -/
def State.waitingSince (s : State) (c e : Nat) : Option (Nat × List Nat) :=
  let k := s.core c
  match s.eng c e with
  | some r =>
    if r.halt.isSome || r.ready then none
    else if opWctrEn r.op.w && r.drawn.isNone then
      (if (Table.get none s.fab.ctrs (opWctr r.op.w)).isNone then some (r.tileFrom, r.op.w) else none)
    else if r.begun && !r.tileOpen && decide (r.pos < runTotal k r) && !kZero k r && !k.waitsOk (opTileWaits r.op.w) then
      some (r.tileFrom, r.op.w)
    else none
  | none => match (Table.get [] k.queues e).head? with
    | some q => if k.waitsOk (opStartWaits q.w) then none else some (Table.get 0 k.headAt e, q.w)
    | none => none

def execWaitTimeout (c : Fin 64) (e : Engine) (t : Nat) (s : State) : Host.Outcome State Fault Refusal :=
  .next (
    let s := s.at t
    if s.coreLive c && s.car.waitStop.isNone then
      match s.waitingSince c (Engine.code e) with
      | some (from_, w) =>
        if patWaitLimit s.pat.image < s.now - from_ - pausedNs s.car.pauses from_ s.now then
          s.faultKnell c 0x03 (opId w) 0 0x01
        else s
      | none => s
    else s)

end Sys2Proof.Machine
end

