-- ==== Sys2Proof/Machine/StartUp.lean ====
section
/-!
DEFINITION. The reset and start-up rows (R476 to R485), the UCIe link rows (R399, R400) and the power states of the
PCIe function (R401).
-/
namespace Sys2Proof.Machine

/-- VAON rises from below its range (Table 21.1). -/
def execPowerOn (t : Nat) (s : State) : Host.Outcome State Fault Refusal :=
  .next ((s.at t).takeReset 0 false)

/-- RESET_N low for 1 µs; it acts in every state (R479). -/
def execResetN (t : Nat) (s : State) : Host.Outcome State Fault Refusal :=
  .next ((s.at t).takeReset 1 false)

/-- RESET_N rises: start-up begins when PWRGD_MAIN is asserted (R483). -/
def execResetNDeassert (t : Nat) (s : State) : Host.Outcome State Fault Refusal :=
  .next (
    let s := s.at t
    ({ s with cp := { s.cp with rstLow := false } }).beginStart)

/-- The CP watchdog expires, or the lockstep cores disagree: a reset that keeps DRAM (R477). -/
def execWatchdog (t : Nat) (s : State) : Host.Outcome State Fault Refusal :=
  .next (let s := s.at t; if s.live then s.takeReset 4 true else s)

/-- End of ROM_CHECK (R466, R468, R372, R484, R485). -/
def execRomCheck (r : RomResult) (t : Nat) (s : State) : Host.Outcome State Fault Refusal :=
  guardUnit (romOk r) (
    let s := s.at t
    if !s.live || s.cp.phase ≠ 0 then s
    else
      let s := s.reportTrip
      if !r.ok then s.stopStart 1 0
      else
        let s := s.takeIdentity r.identity
        (({ s with pwr := { s.pwr with vmin := r.vmin } }).toPhase 1))

/-- End of IMAGE: bank F verified, bank chosen, fields resolved (R448, R458). -/
def execImage (t : Nat) (s : State) : Host.Outcome State Fault Refusal :=
  .next (
    let s := s.at t
    if !s.live || s.cp.phase ≠ 1 then s
    else if !bankFOk then s.stopStart 2 0
    else s.resolveImage.toPhase 2)

/-- End of DRAM_TRAIN: `fails` are channels (stack, channel) that failed, `lanes` lanes (32 × stack + channel, lane) below
their margin (R255, R264, R265). -/
def execDramTrain (fails : List (Nat × Nat)) (lanes : List (Nat × Nat)) (t : Nat) (s : State) : Host.Outcome State Fault Refusal :=
  guardUnit (fails.all (fun f => stackOk f.1 && decide (f.2 < 32)) && lanesOk lanes) (
    let s := s.at t
    if !s.live || s.cp.phase ≠ 2 then s
    else
      let s := lanes.foldl (fun s l => s.spareLane l.1 l.2) s
      let s := fails.foldl (fun s f => s.logEvent 3 f.1 0x49 f.2 0) s
      if !fails.isEmpty then s.stopStart 3 0
      else ({ s with dram := { s.dram with trained := true, selfRef := false, selfRefKept := false } }).toPhase 3)

/-- End of LINK_TRAIN: links trained, sequences restored, READY (R399, R287, R482, R483). -/
def execLinkTrain (modules rate : Nat) (ports : List (Port × PortTrain)) (areaOk : Bool) (t : Nat) (s : State) : Host.Outcome State Fault Refusal :=
  guardUnit (ucieOk modules rate) (
    let s := s.at t
    if !s.live || s.cp.phase ≠ 3 then s
    else (((s.trainHif modules rate).trainPorts ports).restoreSeqs areaOk).ready)

/-- A phase exceeds its limit (R484). -/
def execPhaseLimit (t : Nat) (s : State) : Host.Outcome State Fault Refusal :=
  .next (
    let s := s.at t
    if s.live && decide (s.cp.phase < 4) && decide (phaseLimitNs s.cp.phase < s.now - s.cp.phaseAt) then s.stopStart 4 0 else s)

/-- The trained UCIe link goes down (R400). -/
def execHifLinkDown (s : State) : Host.Outcome State Fault Refusal :=
  .next (if s.live && s.hif.up then ({ s with hif := { s.hif with up := false } }).logCp 0xDA 0 0 else s)

/-- The link is trained again: one message for every chime bit set and unmasked (R400). -/
def execUcieRetrainComplete (modules rate : Nat) (s : State) : Host.Outcome State Fault Refusal :=
  guardUnit (ucieOk modules rate) (
    if !s.live || s.hif.up || (s.cp.phase ≠ 4 && s.cp.phase ≠ 6) then s
    else
      (s.trainHif modules rate).announce)

/-- A write to the MSI-X table (R401, R413). -/
def execMsixTableWrite (off : Nat) (data : List Byte) (s : State) : Host.Outcome State Fault Refusal :=
  guardUnit (msixOk off data.length) (
    if !s.barOpen then s else s.putMsix off data)

/-- D3hot closes both BARs and leaves the device running (R401). -/
def execD3hot (s : State) : Host.Outcome State Fault Refusal :=
  .next (if s.live && s.hif.up then { s with pcie := { s.pcie with d3hot := true } } else s)

/-- Back to D0: both BARs open again (R401). -/
def execD0Return (s : State) : Host.Outcome State Fault Refusal :=
  .next (if s.live && s.hif.up then { s with pcie := { s.pcie with d3hot := false } } else s)

end Sys2Proof.Machine
end

