-- ==== Sys2Proof/Machine/WorkCounter.lean ====
section
/-!
DEFINITION. The work counter (R94 to R99), rescue issue and commit (R100 to R103).
-/
namespace Sys2Proof.Machine

def State.ctr (s : State) (n : Nat) : Option Wctr := Table.get none s.fab.ctrs n
def State.updCtr (s : State) (n : Nat) (f : Wctr → Wctr) : State :=
  { s with fab := { s.fab with ctrs := Table.upd none s.fab.ctrs n (fun o => o.map f) } }

/-- What a draw returns (R96, R101): a marked index is waiting until it is handed out or committed (log 92). -/
inductive Draw where
  | index (i : Nat) (rescue : Bool) | done | wait
  deriving DecidableEq, Repr

def Wctr.draw (x : Wctr) : Draw :=
  if x.next < x.count then .index x.next false
  else if x.factor = 0 || x.commits.length == x.count then .done
  else match x.marks.find? (fun m => !x.taken.contains m && !x.commits.any (fun y => y.1 == m)) with
    | some m => .index m true
    | none => .wait

/-- An op with WCTR_EN draws and goes on with its tile; the counter records the time (R100). A draw from an unarmed
counter waits (R96); one that another core armed is open to every op that names it (R95, log 93). -/
def execWctrDraw (c : Fin 64) (e : Engine) (t : Nat) (up : List (Nat × Nat)) (s : State) :
    Host.Outcome State Fault Refusal :=
  .next (
    let s := (s.at t).upset c up
    let ec := Engine.code e
    match s.eng c ec with
    | none => s
    | some r =>
      if !s.coreLive c || !opWctrEn r.op.w || r.drawn.isSome || r.ready || r.halt.isSome then s
      else match s.ctr (opWctr r.op.w) with
        | none => s
        | some x => match x.draw with
          | .wait => s
          | .done => s.completeOp c ec r
          | .index i rescue =>
            let s := s.updCtr (opWctr r.op.w) (fun x =>
              let x := { x with draws := x.draws ++ [(i, c.val, s.now)] }
              if rescue then { x with taken := i :: x.taken } else { x with next := i + 1 })
            (s.setEng c ec (some { r with drawn := some (i, rescue), pos := 0, tileOpen := false, tileFrom := s.now })).engLoop
              engFuel c ec)

/-! ## Rescue issue -/

/-- Twice the median of a list of times: of an even number, the mean of the two middle ones (log 25). -/
def median2 (l : List Nat) : Nat :=
  let q := sortBy (fun a b => decide (a < b)) l
  q.getD ((q.length - 1) / 2) 0 + q.getD (q.length / 2) 0

/-- Ops of which the CP marks no tile (R103, R124): ACC, an epilogue that reads the op's own C buffer, C in a core
store, a ROWSTAT stage. -/
def noRescue (k : Core) (w : List Nat) : Bool :=
  let cb := opBuf w 2
  let epi := chainFor k (opEpi w)
  let readsC := match epi with
    | some ch => ch.stages.any (fun s =>
        (s.code == 0x11 && opBuf w 3 == cb) || (s.code == 0x10 && s.buf1 == cb))
    | none => false
  opAcc w || readsC || (cb != noBuf && decide ((bufOf k cb).space ≤ 1)) || hasStage epi 0x14

/-- The op of a core that names a counter. -/
def State.ctrOp (s : State) (c n : Nat) : Option (List Nat) :=
  ((List.range 7).filterMap (fun e => (s.eng c e).map (fun r => r.op.w))).find? (fun w => opWctrEn w && opWctr w == n)

/-- The CP marks an index that has been out for F times the median draw-to-commit time (R100). -/
def execRescueMark (ctr : Fin 64) (idx t : Nat) (s : State) : Host.Outcome State Fault Refusal :=
  .next (
    let s := s.at t
    match s.ctr ctr with
    | none => s
    | some x => match x.draws.find? (fun d => d.1 == idx) with
      | none => s
      | some (_, c, at_) =>
        let out := !(x.commits.any (fun y => y.1 == idx)) && !x.marks.contains idx
        let late := decide (x.factor * median2 (x.commits.map Prod.snd) ≤ 2 * (s.now - at_))
        match s.ctrOp c ctr with
        | none => s
        | some w =>
          if s.running && x.factor != 0 && decide (8 ≤ x.commits.length) && out && late && !noRescue (s.core c) w then
            s.updCtr ctr (fun x => { x with marks := x.marks ++ [idx] })
          else s)

/-! ## Commit -/

/-- A finished tile tests and sets its index's flag: the first to set it releases what it held, the second discards
it and is counted (R102, Table 18.4). Its signals count as sent when it commits (Table 8.3). The op then goes on to its next
draw. -/
def execTileCommit (c : Fin 64) (e : Engine) (t : Nat) (up : List (Nat × Nat)) (s : State) :
    Host.Outcome State Fault Refusal :=
  .next (
    let s := (s.at t).upset c up
    let ec := Engine.code e
    match s.eng c ec with
    | none => s
    | some r => match r.drawn with
      | none => s
      | some (i, _) =>
        if !s.coreLive c || !r.ready then s
        else match s.ctr (opWctr r.op.w) with
          | none => s
          | some x =>
            let r' := { r with drawn := none, ready := false, held := [], pos := 0, tileFrom := s.now, acc := [], poisonTile := false }
            if x.commits.any (fun y => y.1 == i) then (s.count 3 (4 * c + 1) 1).setEng c ec (some r')
            else if s.outWaits c r.held then s
            else
              let d := descOf (descWords (s.core c) (opLoop r.op.w))
              let s := (s.setEng c ec (some { r' with tiles := r.tiles + 1 })).updCtr (opWctr r.op.w) (fun x => { x with commits := x.commits ++ [(i, s.now - x.drawnAt i c s.now)] })
              s.carryTile c ec (d.pitch.getD 2 1) r.op.w r.held)

end Sys2Proof.Machine
end

