-- ==== Sys2Proof/Machine/Streams.lean ====
section
/-!
DEFINITION. Halted streams and their repair (R230 to R233), and deadline arbitration (R216 to R219).
-/
namespace Sys2Proof.Machine

/-! ## Resume and repair limit -/

/-- Is the cause of a halt repaired (Table 8.8): the page is in DEVICE, the twin's bytes are here, or the one retry
from HOME is still to be made. -/
def State.repaired (s : State) (r : Run) (h : Halt) : Bool :=
  let got := r.patch.any (fun x => decide (h.faddr ≤ x.1) && decide (x.1 < h.faddr + h.size))
  match h.fault with
  | 0x10 => match s.pageOf (h.faddr / 2 ^ 40) (h.faddr % 2 ^ 40 / pageBytes) with
    | some rc => (s.page rc).any (fun p => p.st == 2)
    | none => false
  | 0x13 => got || r.retry == some h.faddr
  | _ => got

/-- Is any stream of the device halted. -/
def State.anyHalted (s : State) : Bool :=
  (List.range 64).any (fun c => (s.eng c 6).any (fun r => r.halt.isSome))

/-- A halted stream resumes at its position with its captured bounds (R231); the member's last one sends RESUME (R232). -/
def execStreamResume (c : Fin 64) (t : Nat) (s : State) : Host.Outcome State Fault Refusal :=
  .next (
    let s := s.at t
    match s.eng c 6 with
    | none => s
    | some r => match r.halt with
      | none => s
      | some h =>
        if s.coreLive c && s.repaired r h then
          let s := (s.addHalt (s.now - h.counted)).setEng c 6 (some { r with halt := none, reqAt := s.now })
          let s := if s.car.member && !s.anyHalted then s.noticeAll "RESUME" [s.selfIdx] else s
          s.engLoop engFuel c 6
        else s)

/-- A halt whose cause is not repaired within the repair limit raises the knell with cause REPAIR_LIMIT (R233). -/
def execRepairLimit (c : Fin 64) (t : Nat) (s : State) : Host.Outcome State Fault Refusal :=
  .next (
    let s := s.at t
    match s.eng c 6 with
    | none => s
    | some r => match r.halt with
      | none => s
      | some h =>
        if !s.repaired r h && decide (s.policy 0x0031 * 1000000 < s.now - h.since) then s.raiseKnell 0x03 h.fault 1 c else s)

/-! ## Repair of a failed burst between steps -/

/-- HOME bytes of a DRAM burst that lies in a page with one: host address (R230, R258). -/
def State.burstHome (s : State) (burst : Nat) : Option Nat :=
  let f := burst * 128 / pageBytes
  (s.kv.recs.find? (fun e => match e.2 with
    | some p => p.st != 0 && p.frame == f && p.home != 0
    | none => false)).bind (fun e => e.2.map (fun p => p.home * 4096 + burst * 128 % pageBytes))

/-- Take a burst off the rewrite list. -/
def State.rewritten (s : State) (burst : Nat) : State :=
  { s with dram := { s.dram with rewrite := NatSet.remove s.dram.rewrite burst } }

/-- Rewrite a burst from HOME, its poison with it; without one, or on a host error, DATA_LOST (R230, R258, log 26). -/
def State.rewriteHome (s : State) (burst : Nat) : State :=
  match (s.burstHome burst).bind (fun a => (s.hostRead a 128).map (fun bs => (a, bs))) with
  | some (a, bs) =>
    (s.rewritten burst).dramWrite (bs.mapIdx (fun i b => (burst * 128 + i, b, NatSet.has s.host.poison ((a + i) / 64))))
  | none => (s.rewritten burst).logCp 0xD4 128 (burst * 128)

/-- Between steps the CP rewrites a failed burst from the twin, whose reply brings the bytes, or from HOME; with
neither it logs DATA_LOST (R230, R258). -/
def execBurstRewrite (burst : Nat) (s : State) : Host.Outcome State Fault Refusal :=
  guardUnit (dramOk (burst * 128) 1) (
    if s.running || s.dram.closed || !NatSet.has s.dram.rewrite burst then s
    else if s.canRefetch then s.askTwin 3 (burst * 128) 128
    else (s.rewriteHome burst).stepsGo)

/-! ## Arbitration -/

/-- Key of an arbiter: a DRAM channel, or 768 for the host interface. -/
def Arbiter.key : Arbiter → Nat
  | .channel st ch => st * 32 + ch
  | .host => 768

/-- Does a byte of a space come from, or go to, this arbiter's path. -/
def State.atArbiter (s : State) (a : Arbiter) (space addr : Nat) (write : Bool) : Bool :=
  let dram (d : Nat) : Bool := match a with
    | .channel _ _ => (dramLoc d).chanKey == Arbiter.key a
    | .host => false
  match space with
  | 3 => dram addr
  | 4 => match s.locate addr write with
    | .dram d _ => dram d
    | .host _ _ => a == .host
    | _ => false
  | 5 => a == .host
  | _ => false

/-- A running stream has a request pending at the arbiter: the waits of its tile are satisfied, and its present cell reads
there, other than from the fetch part, or writes there (R57, R216, R223). -/
def State.pendingAt (s : State) (a : Arbiter) (c : Nat) : Bool :=
  match s.eng c 6 with
  | none => false
  | some r =>
    let k := s.core c
    let ba := bufOf k (opBuf r.op.w 0)
    let bc := bufOf k (opBuf r.op.w 2)
    let hit (x : Nat) : Bool := r.patch.any (fun y => y.1 == x) || (opCode r.op.w == 3 && s.fab.fetch.contains (x / 1024))
    r.halt.isNone && r.begun && !r.ready && decide (r.pos < runTotal k r) && (r.tileOpen || k.waitsOk (opTileWaits r.op.w)) &&
      (tmvMoves k r).any (fun m =>
        (m.src.any (fun x => !hit x && s.atArbiter a ba.space x false)) ||
        ((bitAddrs bc m.dst m.n).any (fun x => s.atArbiter a bc.space x true)))

def opDrain (w : List Nat) : Nat := fld (opImm w 0) 15 0

/-- In-bound bytes of the run's present tile of stream C (R216). -/
def tileBytes (k : Core) (r : Run) : Nat :=
  let g := engGeo k r
  let n := runCells k r
  let p0 := r.pos / n * n
  let elems := (List.range n).foldl (fun acc i =>
    let idx := (g.indices r (p0 + i)).1
    acc + dimLive g.d r.bounds idx 1 * dimLive g.d r.bounds idx 2) 0
  elems * (opFmt r.op.w 2).bits / 8

/-- Time-to-empty of a foreground stream in ns (R216). -/
def State.tte (s : State) (c : Nat) (r : Run) : Nat :=
  let w := r.op.w
  match opSig w 0 with
  | none => 0
  | some (_, g) =>
    let fullAt (x : Nat) : Nat := (s.core x).sem g.pair false
    let full := if opCode w = 2 then
        (match (mcastCores w).map fullAt with
         | [] => 0
         | x :: xs => xs.foldl min x)
      else fullAt g.core
    if s.cBound c w then 0 else full * tileBytes (s.core c) r / max 1 (opDrain w)

/-- The FULL counters that a stream signals: (core, pair). -/
def fullTargets (w : List Nat) : List (Nat × Nat) :=
  let one (i : Nat) : List (Nat × Nat) := match opSig w i with
    | some (_, g) => if g.side then []
        else if i = 0 && opCode w = 2 then (mcastCores w).map (fun x => (x, g.pair)) else [(g.core, g.pair)]
    | none => []
  one 0 ++ one 1

/-- An op waits on a FULL counter that this stream signals (R219). -/
def State.starves (s : State) (w : List Nat) : Bool :=
  (fullTargets w).any (fun tp => (List.range 7).any (fun e =>
    match s.waitingSince tp.1 e with
    | some (_, v) => (opWaits v).any (fun x => !x.side && x.pair == tp.2 && decide ((s.core tp.1).sem x.pair false < x.count))
    | none => false))

/-- Starvation ceiling of a background stream in ns (Table 8.6). -/
def State.ceiling (s : State) (id : Nat) : Nat := s.policy (0x0020 + min id 3)

/-- Nanoseconds between two scrub granules of a channel (R256). -/
def State.scrubPace (s : State) : Nat := s.policy 0x0052 * 3600 * 1000000000 / 262144

/-- Background streams pending at the arbiter: id and since when (Table 8.6, R218, R256). -/
def State.background (s : State) (a : Arbiter) : List (Nat × Nat) :=
  let key := Arbiter.key a
  let due := Table.get 0 s.dram.scrubAt key + s.scrubPace
  let scrub := if a != .host && decide (due ≤ s.now) && s.dram.trained then [(0, due)] else []
  let twin := if a != .host && s.twin.st == 3 && s.twin.resync.isSome && !s.twin.paused then [(1, s.twin.since)] else []
  let moves := s.kv.copyq.filter (fun e => s.copying.contains e.1 && (match a with
    | .host => true
    | .channel st ch => (s.page e.1).any (fun p => (ch * 24 + st) / 256 == p.frame % 3)))
  let host := (moves.head?.map (fun e => (2, e.2))).toList
  let weight := (List.range 64).filterMap (fun c => match s.eng c 6 with
    | some r => if opDrain r.op.w == 0 && !s.starves r.op.w && s.pendingAt a c then some (3 + c, r.reqAt) else none
    | none => none)
  scrub ++ twin ++ host ++ weight

/-- Foreground streams pending at the arbiter: time-to-empty, core, OPID. -/
def State.foreground (s : State) (a : Arbiter) : List (Nat × Nat × Nat) :=
  (List.range 64).filterMap (fun c => match s.eng c 6 with
    | none => none
    | some r =>
      if !s.pendingAt a c then none
      else if opDrain r.op.w ≠ 0 then some (s.tte c r, c, opId r.op.w)
      else if s.starves r.op.w then some (0, c, opId r.op.w)
      else none)

/-- The foreground stream that wins: smallest time-to-empty, then lower core, then lower OPID (R217). -/
def fgBefore (a b : Nat × Nat × Nat) : Bool :=
  if a.1 ≠ b.1 then decide (a.1 < b.1) else if a.2.1 ≠ b.2.1 then decide (a.2.1 < b.2.1) else decide (a.2.2 < b.2.2)

/-- The background stream whose turn is next, from id `from_` on (R217). -/
def nextTurn (from_ : Nat) (ids : List Nat) : Option Nat :=
  match ids.find? (fun i => decide (from_ ≤ i)) with
  | some i => some i
  | none => ids.head?

def bgKey (key id : Nat) : Nat := key * 128 + id

/-- Time of one granule on the path, in ns (R214, Table 8.5): 1 KiB at a channel's 32 GB/s, 256 B at the host link's
rate (R399), in whole ns (log 105). -/
def State.granuleNs (s : State) (a : Arbiter) : Nat := match a with
  | .channel _ _ => 32
  | .host => 256 / max 1 s.hif.bytesPerNs

/-- The granule of a channel that patrol scrub reads next: its first burst (R251, R256). -/
def scrubBase (key lg : Nat) : Nat := (lg * 768 + key % 32 * 24 + key / 32) * 8

/-- A granule of a background stream is granted: its age restarts when the granule completes; scrub reaches the eight bursts of
its granule and goes on to the next of the channel (R218, R256). -/
def State.bgGrant (s : State) (a : Arbiter) (id : Nat) : State :=
  let key := Arbiter.key a
  let d := s.dram
  let d := { d with
    grants := Table.set none d.grants key (some (.background id)),
    bgFrom := Table.set none d.bgFrom (bgKey key id) (some (s.now + s.granuleNs a)),
    rrTurn := Table.set 0 d.rrTurn key (id + 1) }
  let d := if id = 0 then
      { d with
        scrubDue := ((List.range 8).map (scrubBase key (Table.get 0 d.scrub key) + ·)).foldl NatSet.insert d.scrubDue,
        scrub := Table.upd 0 d.scrub key (fun x => (x + 1) % 262144), scrubAt := Table.set 0 d.scrubAt key s.now }
    else d
  { s with dram := d }

/-- Since when a background stream's age counts: the later of when it became pending and its last granule here (R218). -/
def State.ageFrom (s : State) (key : Nat) (x : Nat × Nat) : Nat := max x.2 ((Table.get none s.dram.bgFrom (bgKey key x.1)).getD 0)

/-- One arbitration point (R216 to R219). A closed or untrained DRAM grants nothing. -/
def State.arbitrate (s : State) (a : Arbiter) : State :=
  let key := Arbiter.key a
  if a != .host && (s.dram.closed || !s.dram.trained || s.dram.selfRef) then s
  else
    let bg := s.background a
    let old := bg.filter (fun x => decide (s.ceiling x.1 < s.now - s.ageFrom key x))
    match (sortBy (fun x y => decide (s.ageFrom key x < s.ageFrom key y)) old).head? with
    | some x => s.bgGrant a x.1
    | none => match (sortBy fgBefore (s.foreground a)).head? with
      | some (_, c, id) => { s with dram := { s.dram with grants := Table.set none s.dram.grants key (some (.stream c id)) } }
      | none => match nextTurn (Table.get 0 s.dram.rrTurn key) (bg.map Prod.fst) with
        | some id => s.bgGrant a id
        | none => s

def execGranuleGrant (a : Arbiter) (t : Nat) (s : State) : Host.Outcome State Fault Refusal :=
  guardUnit (arbiterOk a) ((s.at t).arbitrate a)

end Sys2Proof.Machine
end

