-- ==== Sys2Proof/Machine/Tap.lean ====
section
/-!
DEFINITION. The test access port (R497): IDCODE, BYPASS, SAMPLE/PRELOAD and the EXTEST instructions.
-/
namespace Sys2Proof.Machine

/-- The IDCODE word (R497): version 0, part 0xF024, the manufacturer code, 1. -/
def tapIdWord : Nat := place 0xF024 12 + place (Config.tapMaker % 2048) 1 + 1

/-- Does the instruction take the pins from the device. -/
def takesPins : Config.TapIns → Bool
  | .extest | .extestPulse | .extestTrain => true
  | _ => false

/-- What the selected data register captures: the IDCODE, a 0 in BYPASS, or the pins as they are, which are free (log 8). -/
def State.tapCapture (s : State) : List Bool :=
  match s.tap.ir with
  | .idcode => (List.range 32).map (fun i => tapIdWord.testBit i)
  | .bypass => [false]
  | _ => (s.freeBytes Config.tapBoundary).map (fun b => b.getLsbD 0)

/-- An instruction is shifted in: every undefined code selects BYPASS; an EXTEST drives the pins from the boundary register. -/
def State.tapShiftIr (s : State) (code : Nat) : State :=
  let ir := (Config.tapCode code).getD .bypass
  let s := { s with tap := { s.tap with ir := ir, extest := takesPins ir, pins := if takesPins ir then s.tap.dr else [] } }
  s.emit (.tdo Config.tapIrCapture)

/-- Data is shifted through the selected register: what it captured comes out first; then it is updated. -/
def State.tapShiftDr (s : State) (bs : List Bool) : State :=
  let cap := s.tapCapture
  let all := cap ++ bs
  let s := s.drew (match s.tap.ir with | .idcode | .bypass => 0 | _ => cap.length)
  let dr := all.drop bs.length
  let boundary := match s.tap.ir with | .idcode | .bypass => false | _ => true
  let s := if boundary then
      { s with tap := { s.tap with dr := dr, pins := if takesPins s.tap.ir then dr else s.tap.pins } }
    else s
  s.emit (.tdo (all.take bs.length))

def execTestAccessPort (op : TapOp) (s : State) : Host.Outcome State Fault Refusal :=
  .next (match op with
    | .reset => { s with tap := { ir := .idcode, extest := false, pins := [], dr := s.tap.dr } }
    | .shiftIr code => s.tapShiftIr code
    | .shiftDr bs => s.tapShiftDr bs)

end Sys2Proof.Machine
end

