-- ==== Sys2Proof/Machine/TwinCmds.lean ====
section
/-!
DEFINITION. The twin commands (R352 to R370, R439), the resynchronisation, and what arrives over PT: mirror writes, CP state
changes, refetches and hold notices.
-/
namespace Sys2Proof.Machine

/-- Every twin command returns the twin status word in Z0 (R352, R439). -/
def State.twinReply (s : State) (n code bitmap : Nat) : State := s.reply n code 0 (bytes64 [s.twin.word]) bitmap

/-! ## Resynchronisation (R366 to R369) -/

/-- Digest over the (sequence, GEN) pairs of the open sequences (R368). -/
def State.genDigest (s : State) : List Byte := shake256 8 (bytes64 (s.openSeqs.flatMap (fun q => [q, hdrGen (s.hdr q)])))

def State.spaceThree (s : State) : List (Nat × Nat) :=
  if s.pat.st = .none then []
  else (patCores s.pat.image).flatMap (fun c =>
    let k := patCore s.pat.image c
    (List.range (ctlTable k 2).2).filterMap (fun i =>
      let b := bufOf k i
      if b.space = 3 then some (b.base, b.size) else none))

/-- Does a resync copy the unit: a frame in use, a SPACE 3 buffer of the pattern or the CP area lies in it (R366). -/
def State.unitUsed (s : State) (u : Nat) : Bool :=
  s.framesUsed.any (fun f => f / 4096 == u) ||
  s.spaceThree.any (fun b => decide (b.1 < (u + 1) * 2 ^ 30) && decide (u * 2 ^ 30 < b.1 + b.2)) || Config.cpAreaUnit u

/-- Write the resync record of a side after `mark` units (R368). -/
def State.markResync (s : State) (own : Bool) (mark : Nat) : State :=
  s.writeRec (.resync (s.img.rseq + 1) own mark s.ep.lce s.genDigest ((List.range 32).map Config.twinIdentity))

/-- The source's CP state, as Table 15.3 lists it. -/
def State.sendCpState (s : State) : State :=
  let say (s : State) (name : String) (args : List Nat) (bytes : List Byte) : State := s.emit (.ptNotice name args bytes)
  let s := if s.pat.st = .none then s else say s "PATTERN_LOAD" [] s.pat.image
  let s := say s "RUDIMENTS" [] s.rud.digest
  let s := if s.pat.st = .started then say s "PATTERN_START" [] [] else s
  let set : List (Nat × Nat) := s.pol.values.filterMap (fun (e : Nat × Option Nat) => e.2.map (fun v => (e.1, v)))
  let s := (set ++ (s.pol.routing.map (fun v => (1, v))).toList ++ s.pol.next ++ s.pol.late).foldl
    (fun (s : State) (e : Nat × Nat) => say s "POLICY_SET" [e.1, e.2] []) s
  let s := s.kv.lens.foldl (fun s e => say s "LENS" [e.1, e.2.committed, e.2.prov, e.2.maxlen, b2n e.2.isOpen] []) s
  let s := s.kv.hdrs.foldl (fun s e => say s "HEADER" (e.1 :: e.2) []) s
  let s := match s.car.rec? with | some r => say s "CARILLON" [] r.payload | none => s
  say s "RETIRED" [s.ep.next - 1] []

/-- The pair is CURRENT again; the command completes (R366). -/
def State.becomeCurrent (s : State) (source : Bool) : State :=
  let s := { s with twin := { s.twin with st := 1, resync := none, wmark := 192, mirror := [], paused := false } }
  let s := if source then s.sendCpState else s
  let s := s.logCp 0x82 0 s.twin.word
  (s.mb.jobs.filter (fun j => j.kind == .resync)).foldl (fun s j => s.twinReply j.n stOk 0) s

/-- Bytes of a unit that memory lists, as (offset, value) words of the notice. -/
def State.unitArgs (s : State) (u : Nat) : List Nat := (s.dram.bytes.slice (u * 2 ^ 30) (2 ^ 30)).flatMap (fun e => [e.1, e.2.toNat])

/-- Pass over the units that hold nothing, counting each as completed; after the last the pair is CURRENT (R366). -/
def State.skipUnits : Nat → State → Nat → State
  | 0, s, _ => s.becomeCurrent true
  | f + 1, s, u =>
    if 192 ≤ u then s.becomeCurrent true
    else if s.unitUsed u then { s with twin := { s.twin with st := 3, wmark := u, resync := some (u, s.now) } }
    else State.skipUnits f (s.emit (.ptNotice "RESYNC_UNIT" [u] [])) (u + 1)

/-- Begin to copy from unit u, on the source; the target waits for its units. -/
def State.beginResync (s : State) (u : Nat) : State :=
  let s : State := { s with twin := { s.twin with st := 3, wmark := u, resync := some (u, s.now), paused := false, since := s.now } }
  if s.twin.valid then State.skipUnits 193 s u else s.emit (.ptNotice "RESYNC" [u] [])

/-- The unit at which a resync resumes, by the source's record (R369); none: it restarts. -/
def State.resumeUnit (s : State) (targetMark : Option Nat) (kept : Bool) : Option Nat :=
  if !s.twin.valid then targetMark
  else match s.img.journal.findSome? (fun r => match r with | .resync _ true m l d _ => some (m, l, d) | _ => none), targetMark with
    | some (m, l, d), some tm => if decide (m ≤ tm) && l == s.ep.lce && d == s.genDigest && kept then some m else none
    | _, _ => none

/-- TWIN_RESYNC: the operands are the target's WMARK record and whether its DRAM was kept, or on the target the unit that the
source names (R369). -/
def execTwinResync (n : Fin 64) (targetMark : Option Nat) (targetKept : Bool) (s : State) : Host.Outcome State Fault Refusal :=
  .next (s.serve n.val 0x81 [] (fun s bs =>
    if s.twin.st ≠ 2 || !(s.port .pt).trained then s.twinReply n.val stNotInState 0
    else if bs.length ≠ 0 then s.twinReply n.val stBadArg 0
    else
      let s := s.await n.val .resync [] [] []
      match s.resumeUnit targetMark targetKept with
      | some u => s.beginResync u
      | none => (s.logCp 0x83 0 s.twin.word).beginResync 0))

/-- A resync unit is complete (R366, R368): journalled, and on the source the next one begins; one that failed makes the pair
STALE. -/
def execResyncUnit (u : Nat) (ok : Bool) (s : State) : Host.Outcome State Fault Refusal :=
  .next (
    if s.twin.st ≠ 3 || s.twin.paused || (s.twin.resync.map Prod.fst) != some u then s
    else if !ok then s.stale 8 s.twin.valid
    else if s.twin.valid then
      let s := (s.emit (.ptNotice "RESYNC_UNIT" (u :: s.unitArgs u) [])).markResync true (u + 1)
      State.skipUnits 193 s (u + 1)
    else
      let s := s.markResync false (u + 1)
      if u = 191 then s.becomeCurrent false
      else { s with twin := { s.twin with wmark := u + 1, resync := some (u + 1, s.now) } })

/-! ## Pairing (R354, R355) -/

/-- The two sides pair: this one ACTIVE and valid, STALE with cause PAIRED; a resync follows when the image says so. -/
def State.pair (s : State) : State :=
  let mode := s.field 0x0130
  let s := s.writeRec (.pairing (s.img.rseq + 1) 1 mode true)
  let s := { s with twin := { Twin.init with st := 2, mode := mode, role := 1, valid := true, cause := 1, nextEpoch := s.ep.next } }
  let s := (s.logCp 0x80 0 s.twin.word).logCp 0x81 1 s.twin.word
  s.emit (.ptNotice "PAIR" [mode] [])

def execTwinPair (n : Fin 64) (peer : Option Peer) (s : State) : Host.Outcome State Fault Refusal :=
  .next (s.serve n.val 0x80 [] (fun s bs =>
    match peer with
    | none => s.twinReply n.val stNotInState 0
    | some p =>
      if !(s.port .pt).trained || s.twin.st ≠ 0 || p.paired || s.running || p.stepping || s.car.member || p.member then
        s.twinReply n.val stNotInState 0
      else if bs.length ≠ 0 then s.twinReply n.val stBadArg 0
      else if !(p.sameSilicon && p.sameProfile && p.sameDigests && p.sameRouting && p.journals) then s.twinReply n.val stRejected 0
      else
        let s := s.pair.twinReply n.val stOk 3
        if s.field 0x0131 = 1 then s.beginResync 0 else s))

/-- Remove the pairing and its journal records on this side (R355). -/
def State.unpair (s : State) : State :=
  let s := if (s.port .pt).trained && s.twin.st != 0 then s.emit (.ptNotice "UNPAIR" [] []) else s
  { s with
    twin := Twin.init, ep := { s.ep with persist := false, mismatch := none },
    img := { s.img with journal := s.img.journal.filter (fun r => match r with | .pairing .. | .resync .. => false | _ => true) } }

def execTwinUnpair (n : Fin 64) (peerBusy : Bool) (s : State) : Host.Outcome State Fault Refusal :=
  .next (s.serve n.val 0x82 [] (fun s bs =>
    if s.running || s.twin.st = 3 || s.car.member || (peerBusy && (s.port .pt).trained) then s.twinReply n.val stNotInState 0
    else if bs.length ≠ 0 then s.twinReply n.val stBadArg 0
    else s.unpair.twinReply n.val stOk 0))

/-! ## TWIN_MODE (R360) -/

/-- To SHADOW: both sides ACTIVE; VALID stays where it was. -/
def State.toShadow (s : State) : State :=
  { s with twin := { s.twin with mode := 1, valid := s.twin.role == 1 && (s.twin.mode == 0 || s.twin.valid), role := 1 } }

/-- To MIRROR: the other side of the one that KEEP names becomes STANDBY and leaves its carillon (R309). -/
def State.toMirror (s : State) (keepTwin : Bool) : State :=
  let s : State := { s with twin := { s.twin with mode := 0, role := if keepTwin then 2 else 1, valid := !keepTwin, nextEpoch := s.ep.next } }
  if keepTwin && s.car.member then
    let s := s.notice "LEAVE" 0 [s.selfIdx]
    { s with car := { s.car with member := false, haltedBy := [], waitStop := none } }
  else s

def execTwinMode (n : Fin 64) (peerIdle digestEqual : Bool) (s : State) : Host.Outcome State Fault Refusal :=
  .next (s.serve n.val 0x83 [3] (fun s bs =>
    let shadow := bitAt (argW bs 0) 0
    let keep := bitAt (argW bs 0) 1
    if s.twin.st ≠ 1 || s.ep.st != .idle || !peerIdle then s.twinReply n.val stNotInState 0
    else if bs.length ≠ 8 then s.twinReply n.val stBadArg 0
    else if shadow && !(s.car.member && digestEqual) then s.twinReply n.val stRejected 0
    else
      let s : State := { s with ep := { s.ep with persist := false, mismatch := none } }
      let s := if (s.twin.mode == 1) == shadow then s else (if shadow then s.toShadow else s.toMirror keep)
      (s.emit (.ptNotice "MODE" [b2n shadow, b2n keep] [])).twinReply n.val stOk 0))

/-! ## Mirror writes (R357) -/

/-- Does this side take mirror writes: the standby of a current pair, or the target of a resync. -/
def Twin.takes (t : Twin) : Bool := t.standby || (t.st == 3 && !t.valid)

/-- A mirror write arrives: written at the same address, and acknowledged by its link (R357, log 43); `poison`: its flits that
POISON marks (R289). It waits while DRAM is closed (R241). -/
def execMirrorWrite (addr : Nat) (data : List Byte) (poison : List Nat) (s : State) : Host.Outcome State Fault Refusal :=
  guardUnit (dramOk addr data.length) (
    if s.twin.takes && !s.dram.closed then s.dramWrite (messageCells addr poison data) else s)

/-- A mirror write, or a PREPARE, has no acknowledgement after 1 ms: STALE; a PREPARE's member votes alone (R357, R358). -/
def execMirrorFail (t : Nat) (s : State) : Host.Outcome State Fault Refusal :=
  .next (
    let s := s.at t
    let late (x : Nat) : Bool := decide (1000000 ≤ s.now - x)
    let prep := s.ep.ackDue && s.ep.st == .done && late s.ep.prepAt
    let s' := if (s.twin.st = 1 || s.twin.st = 3) && (prep || s.twin.mirror.any (fun m => late m.2)) then s.stale 3 s.validSide else s
    if prep then
      match s'.ep.voteDue with
      | some (e, cs) => s'.castVote e cs (!s'.ep.poison)
      | none => s'
    else s')

/-! ## CP state changes (Table 15.3) -/

/-- A CP state change at the standby. A carillon record that it holds already is that of a plane switch, which leaves NEXT_EPOCH as
it is (R310, R365); another sets it to EPOCH_BASE (R297). -/
def State.applyChange (s : State) (ch : CpChange) : State :=
  match ch with
  | .patternLoad img => s.putPattern img
  | .rudimentLoad pkg => match rudLoad pkg s.sec.ownerKey s.sec.unsignedOk with
    | .ok r => s.putRudiments r
    | .error _ => s
  | .patternStart => if s.pat.st = .none then s else s.startPattern
  | .patternStop => if s.pat.st = .started then s.stopPattern else s
  | .policySet key value => s.queuePolicy key value
  | .lens seq c p m o => s.setLens seq ⟨c, p, o, m⟩
  | .header seq ws => s.setHdr seq ws
  | .carillonRec bs => match carRecOf bs with
    | some r =>
      let r := { r with digest := r.digestOf }
      if s.car.rec? = some r then s
      else { s with car := { s.car with rec? := some r }, twin := { s.twin with nextEpoch := r.desc.getD 0 0 } }
    | none => s
  | .quiesced => { s.zeroProv with twin := { s.twin with prepOf := none } }
  | .retired e => { s with twin := { s.twin with nextEpoch := e + 1 }, ep := { s.ep with next := max s.ep.next (e + 1) } }

def execCpStateChange (ch : CpChange) (s : State) : Host.Outcome State Fault Refusal :=
  .next (if s.twin.takes then s.applyChange ch else s)

/-! ## Refetch (R227, R364) -/

/-- Bytes that the twin reads for a refetch: none on a read error, or for a page that is not in DEVICE. -/
def State.refetchBytes (s : State) (space addr n : Nat) : Option (List Byte) :=
  let one (a : Nat) : Option Byte :=
    let b := s.spaceByte 0 space 0 a
    let here := space == 3 || (s.locate a false matches .dram _ _)
    if here && b.fault == 0 && !b.poison && !b.wait && (space != 3 || decide (a < dramBytes)) then some b.val else none
  (List.range n).foldr (fun i acc => match one (addr + i), acc with
    | some v, some l => some (v :: l)
    | _, _ => none) (some [])

/-- The bursts that a refetch reads (R253). -/
def State.refetchBursts (s : State) (space addr n : Nat) : List Nat :=
  ((List.range n).filterMap (fun i => s.dramOf space (addr + i))).foldl (fun l a => NatSet.insert l (a / 128)) []

/-- A refetch request from the twin: served while the pair is CURRENT, else refused (R353, R364); its reads count what they meet
(R253, R259). It waits while DRAM is closed (R241). -/
def execRefetchRequest (space addr n : Nat) (s : State) : Host.Outcome State Fault Refusal :=
  .next (
    if s.dram.closed then s
    else
      let fit := s.twin.st = 1 && (space = 3 || space = 4) && decide (n ≤ 65536)
      let got := if fit then s.refetchBytes space addr n else none
      let s := if fit then (s.refetchBursts space addr n).foldl State.dramNote s else s
      match got with
      | some bs => s.emit (.ptNotice "REFETCH_REPLY" [space, addr, 1] bs)
      | none => s.emit (.ptNotice "REFETCH_REPLY" [space, addr, 0] []))

/-- Halted streams that wait for the twin's bytes at an address of a space. -/
def State.refetching (s : State) (space addr : Nat) : List Nat :=
  (List.range 64).filter (fun c => ((s.eng c 6).bind Run.halt).any (fun h =>
    (h.fault == 0x20 || h.fault == 0x13) && h.space == space && decide (h.faddr ≤ addr) && decide (addr < h.faddr + h.size)))

/-- A reply: patch the halted streams, rewrite the failed bursts that it covers; with none, NO_REFETCH, or HOME for a burst
between steps (R227, R230, R258, R364). -/
def execRefetchReply (src : SpaceAddr) (data : Option (List Byte)) (s : State) : Host.Outcome State Fault Refusal :=
  .next (
    let addr := src.addr
    let cs := s.refetching src.space addr
    match data with
    | some bs =>
      let s := cs.foldl (fun s c => match s.eng c 6 with
        | some r => s.setEng c 6 (some { r with patch := bs.mapIdx (fun i b => (addr + i, b)) })
        | none => s) s
      let fixed := s.dram.rewrite.filter (fun b => src.space == 3 && decide (addr ≤ b * 128) && decide (b * 128 + 128 ≤ addr + bs.length))
      if cs.isEmpty && !s.running then
        (fixed.foldl (fun s b => (s.rewritten b).dramWrite (cellsOf (b * 128) false ((bs.drop (b * 128 - addr)).take 128))) s).stepsGo
      else s
    | none => match cs with
      | c :: _ => s.raiseKnell 0x02 ((((s.eng c 6).bind Run.halt).map Halt.fault).getD 0) 1 c
      | [] => if s.running || src.space != 3 || !NatSet.has s.dram.rewrite (addr / 128) then s else (s.rewriteHome (addr / 128)).stepsGo)

/-! ## Hold of the twin (R381) -/

/-- A HOLD notice over PT: the coming loss of PT is a pause. -/
def execHoldNotice (s : State) : Host.Outcome State Fault Refusal :=
  .next (if s.twin.st = 1 || s.twin.st = 3 then { s with twin := { s.twin with paused := true } } else s)

/-- The twin has left hold and PT has trained: the pause ends (R369, R381). -/
def execPtPauseEnd (s : State) : Host.Outcome State Fault Refusal :=
  .next (if s.twin.paused && (s.port .pt).trained then { s with twin := { s.twin with paused := false, since := s.now } } else s)

end Sys2Proof.Machine
end

