-- ==== Sys2Proof/Machine/Dispatch.lean ====
section
/-!
DEFINITION. The meaning of each command, one arm per constructor of Instr.
-/
namespace Sys2Proof.Machine

def exec (i : Instr) (s : State) : Host.Outcome State Fault Refusal :=
  match i with
  | .ownerWrite n v mem => Sys2Proof.Machine.execOwnerWrite n v mem s
  | .chimeStatusWrite h v => Sys2Proof.Machine.execChimeStatusWrite h v s
  | .chimeMaskWrite h v => Sys2Proof.Machine.execChimeMaskWrite h v s
  | .apertureBaseWrite v => Sys2Proof.Machine.execApertureBaseWrite v s
  | .supplyStatusWrite v => Sys2Proof.Machine.execSupplyStatusWrite v s
  | .holdStatusWrite v => Sys2Proof.Machine.execHoldStatusWrite v s
  | .beatNumberLoRead => Sys2Proof.Machine.execBeatNumberLoRead s
  | .warmReg v => Sys2Proof.Machine.execWarmReg v s
  | .registerWrite off data => Sys2Proof.Machine.execRegisterWrite off data s
  | .bar2Read off n => Sys2Proof.Machine.execBar2Read off n s
  | .bar2Write off data => Sys2Proof.Machine.execBar2Write off data s
  | .d3hot => Sys2Proof.Machine.execD3hot s
  | .i3cSetdasa static dyn => Sys2Proof.Machine.execI3cSetdasa static dyn s
  | .i3cPrivateWrite data => Sys2Proof.Machine.execI3cPrivateWrite data s
  | .i3cPrivateRead n => Sys2Proof.Machine.execI3cPrivateRead n s
  | .info n => Sys2Proof.Machine.execInfo n s
  | .telemetry n => Sys2Proof.Machine.execTelemetry n s
  | .eventLogRead n => Sys2Proof.Machine.execEventLogRead n s
  | .imageRead n => Sys2Proof.Machine.execImageRead n s
  | .imageWrite n => Sys2Proof.Machine.execImageWrite n s
  | .imageCommit n readBack => Sys2Proof.Machine.execImageCommit n readBack s
  | .imageRevert n => Sys2Proof.Machine.execImageRevert n s
  | .attest n => Sys2Proof.Machine.execAttest n s
  | .identityCert n => Sys2Proof.Machine.execIdentityCert n s
  | .ownerKeySet n => Sys2Proof.Machine.execOwnerKeySet n s
  | .patternLoad n => Sys2Proof.Machine.execPatternLoad n s
  | .patternVerify n => Sys2Proof.Machine.execPatternVerify n s
  | .patternStart n => Sys2Proof.Machine.execPatternStart n s
  | .patternStop n => Sys2Proof.Machine.execPatternStop n s
  | .rudimentLoad n => Sys2Proof.Machine.execRudimentLoad n s
  | .seqOpen n => Sys2Proof.Machine.execSeqOpen n s
  | .seqAppend n twinOk => Sys2Proof.Machine.execSeqAppend n twinOk s
  | .seqClose n => Sys2Proof.Machine.execSeqClose n s
  | .seqLengths n => Sys2Proof.Machine.execSeqLengths n s
  | .stepRun n t => Sys2Proof.Machine.execStepRun n t s
  | .stepCommit n t => Sys2Proof.Machine.execStepCommit n t s
  | .stepAbort n t => Sys2Proof.Machine.execStepAbort n t s
  | .tierPrefetch n => Sys2Proof.Machine.execTierPrefetch n s
  | .tierEvict n t => Sys2Proof.Machine.execTierEvict n t s
  | .tierPin n => Sys2Proof.Machine.execTierPin n s
  | .tierUnpin n => Sys2Proof.Machine.execTierUnpin n s
  | .carillonForm n t => Sys2Proof.Machine.execCarillonForm n t s
  | .planeSwitch n t => Sys2Proof.Machine.execPlaneSwitch n t s
  | .shrink n t => Sys2Proof.Machine.execShrink n t s
  | .carillonLeave n => Sys2Proof.Machine.execCarillonLeave n s
  | .latenessRead n => Sys2Proof.Machine.execLatenessRead n s
  | .twinPair n peer => Sys2Proof.Machine.execTwinPair n peer s
  | .twinResync n targetMark targetKept => Sys2Proof.Machine.execTwinResync n targetMark targetKept s
  | .twinUnpair n peerBusy => Sys2Proof.Machine.execTwinUnpair n peerBusy s
  | .twinMode n peerIdle digestEqual => Sys2Proof.Machine.execTwinMode n peerIdle digestEqual s
  | .selftest n fails => Sys2Proof.Machine.execSelftest n fails s
  | .calibrate n fails found => Sys2Proof.Machine.execCalibrate n fails found s
  | .policySet n => Sys2Proof.Machine.execPolicySet n s
  | .policyGet n => Sys2Proof.Machine.execPolicyGet n s
  | .beatSync n => Sys2Proof.Machine.execBeatSync n s
  | .resetWarm n => Sys2Proof.Machine.execResetWarm n s
  | .holdEnter n t => Sys2Proof.Machine.execHoldEnter n t s
  | .holdExit n t => Sys2Proof.Machine.execHoldExit n t s
  | .g1Info n => Sys2Proof.Machine.execG1Info n s
  | .g1Status n => Sys2Proof.Machine.execG1Status n s
  | .logRead n => Sys2Proof.Machine.execLogRead n s
  | .cfgRead n => Sys2Proof.Machine.execCfgRead n s
  | .cfgWrite n => Sys2Proof.Machine.execCfgWrite n s
  | .cfgCommit n readBack => Sys2Proof.Machine.execCfgCommit n readBack s
  | .modelLoad n => Sys2Proof.Machine.execModelLoad n s
  | .modelCheck n => Sys2Proof.Machine.execModelCheck n s
  | .runStart n => Sys2Proof.Machine.execRunStart n s
  | .runStop n => Sys2Proof.Machine.execRunStop n s
  | .seqNew n => Sys2Proof.Machine.execSeqNew n s
  | .seqPut n twinOk => Sys2Proof.Machine.execSeqPut n twinOk s
  | .seqFree n => Sys2Proof.Machine.execSeqFree n s
  | .seqLen n => Sys2Proof.Machine.execSeqLen n s
  | .infer n t => Sys2Proof.Machine.execInfer n t s
  | .accept n t => Sys2Proof.Machine.execAccept n t s
  | .cancel n t => Sys2Proof.Machine.execCancel n t s
  | .test n fails => Sys2Proof.Machine.execTest n fails s
  | .trim n fails found => Sys2Proof.Machine.execTrim n fails found s
  | .reset n => Sys2Proof.Machine.execReset n s
  | .dispatch c => Sys2Proof.Machine.execDispatch c s
  | .nop c => Sys2Proof.Machine.execNop c s
  | .opEnd c => Sys2Proof.Machine.execEnd c s
  | .gong c => Sys2Proof.Machine.execGong c s
  | .gongArrival c => Sys2Proof.Machine.execGongArrival c s
  | .gongRelease => Sys2Proof.Machine.execGongRelease s
  | .bndset c => Sys2Proof.Machine.execBndset c s
  | .bndload c => Sys2Proof.Machine.execBndload c s
  | .boundRegisterLoad c => Sys2Proof.Machine.execBoundRegisterLoad c s
  | .wctrArm c => Sys2Proof.Machine.execWctrArm c s
  | .mxuOp c t up => Sys2Proof.Machine.execMxuOp c t up s
  | .attn c t up => Sys2Proof.Machine.execAttn c t up s
  | .vuOp c t up => Sys2Proof.Machine.execVuOp c t up s
  | .exp c t up => Sys2Proof.Machine.execExp c t up s
  | .exp2 c t up => Sys2Proof.Machine.execExp2 c t up s
  | .log c t up => Sys2Proof.Machine.execLog c t up s
  | .log2 c t up => Sys2Proof.Machine.execLog2 c t up s
  | .rcp c t up => Sys2Proof.Machine.execRcp c t up s
  | .rsqrt c t up => Sys2Proof.Machine.execRsqrt c t up s
  | .rud c t up => Sys2Proof.Machine.execRud c t up s
  | .rsuOp c t up => Sys2Proof.Machine.execRsuOp c t up s
  | .refmax c t up => Sys2Proof.Machine.execRefmax c t up s
  | .merge c t up => Sys2Proof.Machine.execMerge c t up s
  | .lwadd c t up => Sys2Proof.Machine.execLwadd c t up s
  | .lwround c t up => Sys2Proof.Machine.execLwround c t up s
  | .rollscale c t up => Sys2Proof.Machine.execRollscale c t up s
  | .copy c t up => Sys2Proof.Machine.execCopy c t up s
  | .mcast c t up => Sys2Proof.Machine.execMcast c t up s
  | .fetch c t up => Sys2Proof.Machine.execFetch c t up s
  | .tileStart c e t up => Sys2Proof.Machine.execTileStart c e t up s
  | .wctrDraw c e t up => Sys2Proof.Machine.execWctrDraw c e t up s
  | .rescueMark ctr idx t => Sys2Proof.Machine.execRescueMark ctr idx t s
  | .tileCommit c e t up => Sys2Proof.Machine.execTileCommit c e t up s
  | .coreCompletion c => Sys2Proof.Machine.execCoreCompletion c s
  | .waitTimeout c e t => Sys2Proof.Machine.execWaitTimeout c e t s
  | .streamResume c t => Sys2Proof.Machine.execStreamResume c t s
  | .repairLimit c t => Sys2Proof.Machine.execRepairLimit c t s
  | .burstRewrite burst => Sys2Proof.Machine.execBurstRewrite burst s
  | .stepDone t => Sys2Proof.Machine.execStepDone t s
  | .prepareNotice epoch counts twinDigest t => Sys2Proof.Machine.execPrepareNotice epoch counts twinDigest t s
  | .prepareAck epoch => Sys2Proof.Machine.execPrepareAck epoch s
  | .vote m epoch ok => Sys2Proof.Machine.execVote m epoch ok s
  | .decision epoch commit => Sys2Proof.Machine.execDecision epoch commit s
  | .decisionAck m epoch => Sys2Proof.Machine.execDecisionAck m epoch s
  | .voteLost t => Sys2Proof.Machine.execVoteLost t s
  | .decisionLost t => Sys2Proof.Machine.execDecisionLost t s
  | .knellNotice p k t => Sys2Proof.Machine.execKnellNotice p k t s
  | .quietSend => Sys2Proof.Machine.execQuietSend s
  | .quietNotice q t => Sys2Proof.Machine.execQuietNotice q t s
  | .quiesced epoch => Sys2Proof.Machine.execQuiesced epoch s
  | .quiesceTimeout t => Sys2Proof.Machine.execQuiesceTimeout t s
  | .selfcheck pass => Sys2Proof.Machine.execSelfcheck pass s
  | .formNotice m cid digest => Sys2Proof.Machine.execFormNotice m cid digest s
  | .formed cid => Sys2Proof.Machine.execFormed cid s
  | .formFail cid m => Sys2Proof.Machine.execFormFail cid m s
  | .formTimeout t => Sys2Proof.Machine.execFormTimeout t s
  | .leaveNotice m => Sys2Proof.Machine.execLeaveNotice m s
  | .latenessWindow => Sys2Proof.Machine.execLatenessWindow s
  | .windowRecord r => Sys2Proof.Machine.execWindowRecord r s
  | .message p d data poison t => Sys2Proof.Machine.execMessage p d data poison t s
  | .controlSignal p d t => Sys2Proof.Machine.execControlSignal p d t s
  | .haltNotice m t => Sys2Proof.Machine.execHaltNotice m t s
  | .resumeNotice m t => Sys2Proof.Machine.execResumeNotice m t s
  | .roleNotice => Sys2Proof.Machine.execRoleNotice s
  | .roleTimeout t => Sys2Proof.Machine.execRoleTimeout t s
  | .holdNotice => Sys2Proof.Machine.execHoldNotice s
  | .chunk c => Sys2Proof.Machine.execChunk c s
  | .chunkCombine pop use k upset => Sys2Proof.Machine.execChunkCombine pop use k upset s
  | .spillService pop use k => Sys2Proof.Machine.execSpillService pop use k s
  | .chunkAck r => Sys2Proof.Machine.execChunkAck r s
  | .chunkNak r => Sys2Proof.Machine.execChunkNak r s
  | .dataFlit p raw => Sys2Proof.Machine.execDataFlit p raw s
  | .idleFlit p raw => Sys2Proof.Machine.execIdleFlit p raw s
  | .nak p raw => Sys2Proof.Machine.execNak p raw s
  | .ackStall p t => Sys2Proof.Machine.execAckStall p t s
  | .laneLockLoss p lane => Sys2Proof.Machine.execLaneLockLoss p lane s
  | .retrainComplete p failed => Sys2Proof.Machine.execRetrainComplete p failed s
  | .mirrorWrite addr data poison => Sys2Proof.Machine.execMirrorWrite addr data poison s
  | .mirrorFail t => Sys2Proof.Machine.execMirrorFail t s
  | .refetchRequest space addr n => Sys2Proof.Machine.execRefetchRequest space addr n s
  | .refetchReply src data => Sys2Proof.Machine.execRefetchReply src data s
  | .resyncUnit u ok => Sys2Proof.Machine.execResyncUnit u ok s
  | .beatEdge t temps => Sys2Proof.Machine.execBeatEdge t temps s
  | .beatMiss t temps => Sys2Proof.Machine.execBeatMiss t temps s
  | .refreshWindow t => Sys2Proof.Machine.execRefreshWindow t s
  | .longWindow t lanes trimFail => Sys2Proof.Machine.execLongWindow t lanes trimFail s
  | .windowEnd t => Sys2Proof.Machine.execWindowEnd t s
  | .coreWake c t => Sys2Proof.Machine.execCoreWake c t s
  | .clockGate c t => Sys2Proof.Machine.execClockGate c t s
  | .granuleGrant a t => Sys2Proof.Machine.execGranuleGrant a t s
  | .dramRead addr errs => Sys2Proof.Machine.execDramRead addr errs s
  | .scrubRead addr errs => Sys2Proof.Machine.execScrubRead addr errs s
  | .rowSpared stack chan bank row => Sys2Proof.Machine.execRowSpared stack chan bank row s
  | .frameRetireCopy rec => Sys2Proof.Machine.execFrameRetireCopy rec s
  | .promotionComplete rec => Sys2Proof.Machine.execPromotionComplete rec s
  | .promotionError rec => Sys2Proof.Machine.execPromotionError rec s
  | .evictionComplete rec => Sys2Proof.Machine.execEvictionComplete rec s
  | .evictionError rec => Sys2Proof.Machine.execEvictionError rec s
  | .lastWriteDone rec => Sys2Proof.Machine.execLastWriteDone rec s
  | .forcedEvictionTimeout rec t => Sys2Proof.Machine.execForcedEvictionTimeout rec t s
  | .supplySwitch p t => Sys2Proof.Machine.execSupplySwitch p t s
  | .supplyReturn p t => Sys2Proof.Machine.execSupplyReturn p t s
  | .backupTime p t => Sys2Proof.Machine.execBackupTime p t s
  | .pwrgd t => Sys2Proof.Machine.execPwrgd t s
  | .pwrgdRise t => Sys2Proof.Machine.execPwrgdRise t s
  | .rail r t => Sys2Proof.Machine.execRail r t s
  | .holdAutoExit t => Sys2Proof.Machine.execHoldAutoExit t s
  | .holdExitComplete modules rate ports t => Sys2Proof.Machine.execHoldExitComplete modules rate ports t s
  | .supplySag r t => Sys2Proof.Machine.execSupplySag r t s
  | .clockStretch c mv => Sys2Proof.Machine.execClockStretch c mv s
  | .powerSample draw current avg cavg => Sys2Proof.Machine.execPowerSample draw current avg cavg s
  | .thermalSample temp => Sys2Proof.Machine.execThermalSample temp s
  | .thermtrip stack t => Sys2Proof.Machine.execThermtrip stack t s
  | .powerOn t => Sys2Proof.Machine.execPowerOn t s
  | .resetN t => Sys2Proof.Machine.execResetN t s
  | .watchdog t => Sys2Proof.Machine.execWatchdog t s
  | .romCheck r t => Sys2Proof.Machine.execRomCheck r t s
  | .image t => Sys2Proof.Machine.execImage t s
  | .dramTrain fails lanes t => Sys2Proof.Machine.execDramTrain fails lanes t s
  | .linkTrain modules rate ports areaOk t => Sys2Proof.Machine.execLinkTrain modules rate ports areaOk t s
  | .phaseLimit t => Sys2Proof.Machine.execPhaseLimit t s
  | .hifLinkDown => Sys2Proof.Machine.execHifLinkDown s
  | .ucieRetrainComplete modules rate => Sys2Proof.Machine.execUcieRetrainComplete modules rate s
  | .msixTableWrite off data => Sys2Proof.Machine.execMsixTableWrite off data s
  | .resetNDeassert t => Sys2Proof.Machine.execResetNDeassert t s
  | .testAccessPort op => Sys2Proof.Machine.execTestAccessPort op s
  | .clockFullRate c => Sys2Proof.Machine.execClockFullRate c s
  | .sagEnd r mv t => Sys2Proof.Machine.execSagEnd r mv t s
  | .cpStateChange ch => Sys2Proof.Machine.execCpStateChange ch s
  | .ptPauseEnd => Sys2Proof.Machine.execPtPauseEnd s
  | .d0Return => Sys2Proof.Machine.execD0Return s

end Sys2Proof.Machine
end

