-- ==== Sys2Proof/Safety.lean ====
section
/-!
DEFINITION. The terms that claims use: a mailbox command given to the device as its rule wants it, the invariant that every
step keeps, and what counts as a safe run.
-/
namespace Sys2Proof.Machine

/-- Mailbox n holds the G2 or G3 command `op`, handed over and first of its group; `bs` are its argument bytes, their reserved
bits are 0 and the present phase allows the command (R410, R411, R415, R427). -/
def Given (s : State) (n : Fin 64) (op : Nat) (masks : List Nat) (bs : List Byte) : Prop :=
  s.holds n.val false op = true ∧ s.argsOf n.val = .ok bs ∧ reservedOk bs masks = true ∧ s.allowed n.val op = true

/-- The same for a G1 command (R443); its reserved bits are ignored (R9). -/
def GivenG1 (s : State) (n : Fin 64) (op : Nat) (bs : List Byte) : Prop :=
  s.holds n.val true op = true ∧ s.argsOf n.val = .ok bs ∧ s.allowed n.val (g1As op) = true

/-- The command completes with a next state. -/
def Completes (i : Instr) (s : State) : Prop := ∃ t, exec i s = .next t

/-- The banks that a journal record names exist (Table 19.4). -/
def JRec.banksOk : JRec → Bool
  | .commit _ v p _ _ _ => decide (v ≤ 2) && decide (p ≤ 2)
  | _ => true

/-- What every step keeps. Every waiting command can reach the device; the mailboxes and the memories outside the cores keep
their canonical form; WINDOW of APERTURE_BASE is at most 47 (R406); the four SCRATCH words stand (R402); the test port drives
the pins exactly while an instruction that drives them stands (R497); the journal names only banks that exist (R455); and
unsigned content counts as allowed while no owner key is in force (R470). -/
def Sound (s : State) : Prop :=
  (∀ c ∈ s.pending, c.wf = true) ∧ Table.wf Mbox.init s.mb.box = true ∧ (∀ n, (s.box n).payload.wf = true) ∧
  s.dram.bytes.wf = true ∧ s.host.bytes.wf = true ∧ s.pcie.table.wf = true ∧ s.img.u0.wf = true ∧ s.img.u1.wf = true ∧
  s.bar.window ≤ 47 ∧ s.bar.scratch.length = 4 ∧ s.tap.extest = takesPins s.tap.ir ∧
  s.img.journal.all JRec.banksOk = true ∧ (s.sec.ownerKey = none → s.sec.unsignedOk = true)

/-- A safe run of `k` steps: it ends in a state, neither in a fault nor in a refusal. -/
def SafeRun (k : Nat) (s : State) : Prop := ∃ t, Host.Core.run Sys2Proof.core k s = .next t

end Sys2Proof.Machine
end

