-- ==== Sys2Proof/Certificates/Slice0/Obligations.lean ====
section
/-!
DEFINITION. The statements that the provers settle, one definition each. The rules are those of spec/.
-/
open Sys2Proof Sys2Proof.Machine

/-- With a command at the front of the queue, step is exec of that command on the state whose queue is the rest. On an empty
queue a step answers the same state. The queue is the model's own (log 1). -/
def Obligations.StepRunsFrontCommand : Prop :=
  (∀ (c : Instr) (rest : List Instr) (s : State), step { s with pending := c :: rest } = exec c { s with pending := rest }) ∧
  ∀ s : State, s.pending = [] → step s = .next s

/-- For every command and state: a well-formed command answers a next state, and an ill-formed one stops with noSuchUnit. No
command is refused. -/
def Obligations.StopsOnlyOnAbsentUnits : Prop :=
  ∀ (i : Instr) (s : State), (i.wf = true → ∃ t : State, exec i s = .next t) ∧ (i.wf = false → exec i s = .fault .noSuchUnit)

/-- Whatever command runs, from whatever state: the commands that wait afterwards are those that waited before, in their
order (the model's own queue, log 1). -/
def Obligations.CommandsKeepQueue : Prop :=
  ∀ (i : Instr) (s t : State), exec i s = .next t → t.pending = s.pending

/-- If every waiting command can reach the device, the memories outside the cores are canonical, WINDOW is at most 47, there
are four SCRATCH words, the test port drives the pins exactly under an EXTEST instruction, the journal names only banks that
exist and unsigned content counts as allowed while no owner key is in force, then a step answers a next state in which the
same holds. -/
def Obligations.InvariantKept : Prop :=
  ∀ s : State, Sound s → ∃ t : State, step s = .next t ∧ Sound t

/-- The invariant that every step keeps holds of the state after reset. -/
def Obligations.InvariantAtReset : Prop :=
  Sound State.reset

/-- From every state that meets the invariant, every number of steps ends in a state that meets it: no fault and no refusal.
-/
def Obligations.RunsAreSafe : Prop :=
  ∀ (k : Nat) (s : State), Sound s → ∃ t : State, Host.Core.run Sys2Proof.core k s = .next t ∧ Sound t

/-- A completion with a status, a detail, a result length, a bitmap and at most 4,064 result bytes: the bytes stand in the
payload from its start, RESULT_LEN, RESULT_BITMAP and STATUS hold what was given, OWNER is 2, the MBOX_OWNED bit is clear;
GEN, opcode and flags, TAG and LENGTH stand; outside hold the CHIME_STATUS bit is set, in hold the chime is kept for hold
exit; every other mailbox stands. A reply without a scatter list completes so with the whole result, or its first 4,064
bytes with DETAIL 2. With a scatter list whose one output range is reachable and long enough the result stands in host
memory there, the payload stands, and no other byte of host memory changes. -/
def Obligations.CompletionReturnsMailbox : Prop :=
  (∀ (s : State) (n : Fin 64) (code detail len bitmap : Nat) (pay : List Byte), pay.length ≤ 4064 →
    let t := s.finish n.val code detail len bitmap pay
    (t.box n.val).owner = 2 ∧ (t.box n.val).status = BitVec.ofNat 32 (code + detail * 65536) ∧
    (t.box n.val).resultLen = BitVec.ofNat 32 len ∧ (t.box n.val).bitmap = BitVec.ofNat 32 bitmap ∧
    (t.box n.val).payload.readN 0 pay.length = pay ∧ t.mboxOwned.testBit n.val = false ∧
    (t.box n.val).gen = (s.box n.val).gen ∧ (t.box n.val).opflags = (s.box n.val).opflags ∧
    (t.box n.val).tag = (s.box n.val).tag ∧ (t.box n.val).length = (s.box n.val).length ∧ t.host = s.host ∧
    (s.cp.phase ≠ 5 → t.bar.chimeStatus.testBit n.val = true) ∧
    (s.cp.phase = 5 → t.bar.chimeStatus = s.bar.chimeStatus ∧ (n.val ∈ t.mb.heldChimes ∨ n.val + 64 ∈ t.mb.heldChimes)) ∧
    (∀ m : Fin 64, m ≠ n → t.box m.val = s.box m.val ∧ t.mboxOwned.testBit m.val = s.mboxOwned.testBit m.val)) ∧
  (∀ (s : State) (n : Fin 64) (code detail : Nat) (bytes : List Byte) (bitmap : Nat),
    ((s.box n.val).sgl = false → s.reply n.val code detail bytes bitmap =
      s.finish n.val code (if 4064 < bytes.length then 2 else detail) bytes.length bitmap (bytes.take 4064)) ∧
    (∀ (ins : List (Nat × Nat)) (a len : Nat), (s.box n.val).sgl = true → (s.box n.val).sglOf = some ⟨ins, [(a, len)]⟩ →
      0 < bytes.length → bytes.length ≤ len → s.hostBad a bytes.length = false →
      let t := s.reply n.val code detail bytes bitmap
      (t.box n.val).owner = 2 ∧ (t.box n.val).status = BitVec.ofNat 32 (code + detail * 65536) ∧
      (t.box n.val).resultLen = BitVec.ofNat 32 bytes.length ∧ (t.box n.val).payload = (s.box n.val).payload ∧
      t.host.bytes.readN a bytes.length = bytes ∧
      ∀ x, (x < a ∨ a + bytes.length ≤ x) → t.host.bytes.read x = s.host.bytes.read x))

/-- With BAR0 open. CHIME_STATUS clears exactly the bits written 1 in the written halves. CHIME_MASK takes the written
halves; beside it only the pending messages and what is sent change. APERTURE_BASE takes a WINDOW of at most 47 and ignores
one above. SUPPLY_STATUS and HOLD_STATUS clear their seen bits written 1. A read of BEAT_NUMBER_LO returns the low 32 bits
and latches the high half. A word write to SCRATCH stores it. -/
def Obligations.HostRegisterWritesComplete : Prop :=
  ∀ s : State, s.barOpen = true →
    (∀ (h : Half) (v : Word64), ∃ t : State, exec (.chimeStatusWrite h v) s = .next t ∧
      t = { s with bar := { s.bar with chimeStatus := t.bar.chimeStatus } } ∧
      ∀ n < 64, t.bar.chimeStatus.testBit n =
        (s.bar.chimeStatus.testBit n && !((if n < 32 then takesLo h else takesHi h) && v.getLsbD n))) ∧
    (∀ (h : Half) (v : Word64), ∃ t : State, exec (.chimeMaskWrite h v) s = .next t ∧
      t = { s with out := t.out, bar := { s.bar with chimeMask := t.bar.chimeMask }, pcie := { s.pcie with held := t.pcie.held } } ∧
      ∀ n < 64, t.bar.chimeMask.testBit n =
        (if (if n < 32 then takesLo h else takesHi h) then v.getLsbD n else s.bar.chimeMask.testBit n)) ∧
    (∀ v : Word32, exec (.apertureBaseWrite v) s =
      .next (if v.toNat % 64 ≤ 47 then { s with bar := { s.bar with window := v.toNat % 64 } } else s)) ∧
    (∀ v : Word32, exec (.supplyStatusWrite v) s = .next { s with sup := { s.sup with
      sagSeen := s.sup.sagSeen && !v.getLsbD 27, switchSeen := s.sup.switchSeen && !v.getLsbD 26,
      throtSeen := s.sup.throtSeen && !v.getLsbD 25 } }) ∧
    (∀ v : Word32, exec (.holdStatusWrite v) s = .next { s with sup := { s.sup with
      exited := s.sup.exited && !v.getLsbD 24 } }) ∧
    (exec .beatNumberLoRead s = .next { s with
      bar := { s.bar with beatHi := s.beatNo / 2 ^ 32 % 65536 }, out := s.out ++ [.data (natLe 4 (s.beatNo % 2 ^ 32)) false] }) ∧
    (∀ (i : Fin 4) (data : List Byte), data.length = 4 → exec (.registerWrite (0x400 + 4 * i.val) data) s = .next { s with
      bar := { s.bar with scratch := s.bar.scratch.set i.val (BitVec.ofNat 32 (leNat data)) } })

/-- With BAR0 open and the mailbox not owned by the device: an OWNER write of 1 gives the mailbox to the device at the end
of the order of taking; where the first checks of R415 fail it completes at once with their status, else it stays with OWNER
1 and nothing but this mailbox and the order changes. A write of 0 to a completed mailbox returns it. While OWNER is 1 a
write is discarded and counted. -/
def Obligations.OwnerWriteHandsOver : Prop :=
  ∀ (s : State) (n : Fin 64), Sound s → s.barOpen = true →
    ((s.box n.val).owner ≠ 1 →
      let g := { (s.setBox n.val { s.box n.val with owner := 1 }) with mb := { (s.setBox n.val { s.box n.val with owner := 1 }).mb with
        order := s.mb.order ++ [n.val] } }
      (g.served n.val = true → ∀ c, g.frontStatus n.val = some c → exec (.ownerWrite n 1 []) s = .next (g.finish n.val c 0 0 0 [])) ∧
      (g.served n.val = false ∨ g.frontStatus n.val = none → exec (.ownerWrite n 1 []) s = .next g)) ∧
    ((s.box n.val).owner = 2 → exec (.ownerWrite n 0 []) s = .next (s.setBox n.val { s.box n.val with owner := 0 })) ∧
    (∀ v : Word32, (s.box n.val).owner = 1 → exec (.ownerWrite n v []) s = .next (s.count 0 9 1))

/-- A write to APERTURE_BASE sets WINDOW when the value is at most 47; one above 47 is ignored and the register keeps its
value. With BAR0 and BAR2 open and DRAM trained and not closed: a BAR2 write of a list of bytes answers a next state in which exactly the
bytes at WINDOW x 2^32 + offset upward hold the data and every other DRAM byte, every length entry, header, page record and
core stands. A BAR2 read of bursts without errors or poison, in channels that are not degraded, returns the bytes that stand there, not marked poisoned, and
changes nothing else of the device (the count of free values drawn is the model's own, log 8). -/
def Obligations.ApertureMovesDram : Prop :=
  ∀ s : State, s.barOpen = true → s.dram.trained = true → s.dram.closed = false →
    (∀ (off : Nat) (data : List Byte), off + data.length ≤ 2 ^ 32 → ∃ t : State, exec (.bar2Write off data) s = .next t ∧
      (∀ a, t.dram.bytes.read a =
        if s.bar.window * 2 ^ 32 + off ≤ a ∧ a < s.bar.window * 2 ^ 32 + off + data.length then
          data.getD (a - (s.bar.window * 2 ^ 32 + off)) 0 else s.dram.bytes.read a) ∧
      t.kv = s.kv ∧ t.cores = s.cores ∧ t.bar.window = s.bar.window) ∧
    (∀ off n : Nat, off + n ≤ 2 ^ 32 →
      (∀ b ∈ burstsOf (s.bar.window * 2 ^ 32 + off) n,
        Table.get [] s.dram.errs b = [] ∧ NatSet.has s.dram.poison b = false ∧ s.erased b = none) →
      exec (.bar2Read off n) s = .next { s with
        free := s.free + n, out := s.out ++ [.data (s.dram.bytes.readN (s.bar.window * 2 ^ 32 + off) n) false] }) ∧
    (∀ v : Word32, (fld v.toNat 5 0 ≤ 47 →
        exec (.apertureBaseWrite v) s = .next { s with bar := { s.bar with window := fld v.toNat 5 0 } }) ∧
      (47 < fld v.toNat 5 0 → exec (.apertureBaseWrite v) s = .next s))

/-- With BAR0 open: a write to the payload of a mailbox whose OWNER is not 1 stores the bytes at their place and changes
nothing else; the same write while OWNER is 1 is discarded and counted in TELEMETRY. -/
def Obligations.MailboxWritesLand : Prop :=
  ∀ (s : State) (n : Fin 64) (o : Nat) (data : List Byte), s.barOpen = true → 32 ≤ o → o + data.length ≤ 4096 → data ≠ [] →
    ((s.box n.val).owner ≠ 1 → exec (.registerWrite (0x10000 + 4096 * n.val + o) data) s =
      .next (s.setBox n.val { s.box n.val with payload := (s.box n.val).payload.writeN (o - 32) data })) ∧
    ((s.box n.val).owner = 1 → exec (.registerWrite (0x10000 + 4096 * n.val + o) data) s = .next (s.count 0 9 1))

/-- With BAR0 open: a value with KEY 0xA5C3 and WARM 1, outside hold, starts the reset of kind WARM_REG with KEEP_DRAM as
written; any other value, and every value in hold, is ignored and counted in TELEMETRY. -/
def Obligations.ResetCtlStartsWarmReset : Prop :=
  ∀ (s : State) (v : Word32), s.barOpen = true →
    (v.toNat / 65536 = 0xA5C3 ∧ v.getLsbD 0 = true ∧ s.cp.phase ≠ 5 → exec (.warmReg v) s = .next (s.takeReset 2 (v.getLsbD 1))) ∧
    (¬ (v.toNat / 65536 = 0xA5C3 ∧ v.getLsbD 0 = true ∧ s.cp.phase ≠ 5) → exec (.warmReg v) s = .next (s.count 0 10 1))

/-- A reset of a kind 2 to 4 (warm, watchdog) and hold entry leave the four words as they are; the resets of kinds 0 and 1
(POWER_ON, RESET_N) set all four to 0. -/
def Obligations.ScratchThroughResets : Prop :=
  ∀ (s : State) (kind : Nat) (keep : Bool) (cause : Nat) (m : Option Nat),
    (2 ≤ kind → (s.takeReset kind keep).bar.scratch = s.bar.scratch) ∧
    (kind < 2 → (s.takeReset kind keep).bar.scratch = [0, 0, 0, 0]) ∧
    (s.enterHold cause m).bar.scratch = s.bar.scratch

/-- Every reset (R476 to R481): the clock, the queue and the host's memory stand; start-up is at its first phase (or stopped
by the third watchdog reset); no mailbox is held, no policy value is set, the pattern state is NONE,
every core is at its start, the router and ports are empty, membership has ended and the beat is number 0 with LOST. The
user banks are kept by every reset. The event log holds one record, QUIESCE_TIMEOUT with the epoch retired, after a warm or
watchdog reset in RUNNING or DONE (log 33), and is empty after the others. DRAM and the sequences are kept exactly by a reset that keeps DRAM of a device whose
stacks can enter self-refresh; without that, DRAM lists nothing and no sequence is open. A warm or watchdog reset keeps
NEXT_EPOCH in IDLE, and in PREPARED keeps it with the prepared epoch; in RUNNING and DONE it is one higher; POWER_ON and
RESET_N set it to 1. -/
def Obligations.ResetsKeepTheirState : Prop :=
  ∀ (s : State) (kind : Nat) (keep : Bool),
    let t := s.takeReset kind keep
    t.now = s.now ∧ t.pending = s.pending ∧ t.host = s.host ∧
    (t.cp.phase = 0 ∨ (t.cp.phase = 6 ∧ t.cp.fail = 5 ∧ kind = 4 ∧ 2 ≤ s.cp.wdog)) ∧ t.cp.kind = kind ∧
    t.mb = State.reset.mb ∧
    (t.cp.phase = 0 → (kind < 2 ∨ (s.ep.st ≠ .running ∧ s.ep.st ≠ .done)) → t.ev = State.reset.ev) ∧
    (t.cp.phase = 0 → 2 ≤ kind → (s.ep.st = .running ∨ s.ep.st = .done) → t.ev.recs.map (fun e => (e.kind, e.code, e.data1)) =
      [(0, 0xD3, s.ep.next % 2 ^ 64)]) ∧ t.pol = State.reset.pol ∧ t.pat = State.reset.pat ∧
    t.cores = [] ∧ t.rt = State.reset.rt ∧ t.ports = [] ∧ t.car = Carillon.init ∧ t.beatNo = 0 ∧ t.beat.lost = true ∧
    t.img.u0 = s.img.u0 ∧ t.img.u1 = s.img.u1 ∧
    (s.keepsDram keep = true → t.dram.bytes = s.dram.bytes ∧ t.dram.poison = s.dram.poison ∧ t.kv = s.kv ∧ t.cp.dramKept = true) ∧
    (s.keepsDram keep = false → t.dram.bytes = [] ∧ t.kv = State.reset.kv ∧ t.cp.dramKept = false) ∧
    (kind < 2 → t.ep = Epoch.init) ∧
    (2 ≤ kind → s.ep.st = .idle → t.ep.next = s.ep.next ∧ t.ep.st = .idle ∧ t.ep.prep = none) ∧
    (2 ≤ kind → s.ep.st = .prepared → t.ep.next = s.ep.next ∧ t.ep.st = .prepared ∧ t.ep.prep = s.ep.prep) ∧
    (2 ≤ kind → (s.ep.st = .running ∨ s.ep.st = .done) → t.ep.next = s.ep.next + 1 ∧ t.ep.st = .idle ∧ t.ep.prep = none)

/-- POWER_ON, RESET_N and (while the device runs) WATCHDOG take their reset at their time. RESET_WARM and G1's RESET, given
as their rule wants them, complete with OK and then take the reset of kind WARM_CMD with KEEP_DRAM as asked. RESET_N rising
ends the wait for it; with PWRGD_MAIN asserted and start-up not yet begun, start-up begins. -/
def Obligations.ResetEventsComplete : Prop :=
  ∀ s : State,
    (∀ t, exec (.powerOn t) s = .next ((s.at t).takeReset 0 false)) ∧
    (∀ t, exec (.resetN t) s = .next ((s.at t).takeReset 1 false)) ∧
    (∀ t, s.live = true → exec (.watchdog t) s = .next ((s.at t).takeReset 4 true)) ∧
    (∀ (n : Fin 64) (bs : List Byte), Given s n 0xF0 [1] bs → bs.length = 8 →
      exec (.resetWarm n) s = .next ((s.finish n.val stOk 0 0 0 []).takeReset 3 (bitAt (argW bs 0) 0))) ∧
    (∀ (n : Fin 64) (bs : List Byte), GivenG1 s n 0x7F bs → bs.length = 4 →
      exec (.reset n) s = .next ((s.finish n.val stOk 0 0 0 []).takeReset 3 (bitAt (argG1 bs 0) 0))) ∧
    (∀ t, s.cp.pwrgd = true → s.cp.started = false → exec (.resetNDeassert t) s = .next { s with
      now := max s.now t, cp := { s.cp with
        rstLow := false, started := true, startAt := max s.now t, phaseAt := max s.now t } })

/-- While the device runs with its link up: D3HOT closes both BARs and nothing else changes, and D0_RETURN opens them;
HIF_LINK_DOWN marks the link down and logs it from the CP, steps, sequences, DRAM and mailboxes standing. With the link down
and the device READY, UCIE_RETRAIN_COMPLETE with at least one module brings it up on the region that MOUNT selects (the
other one without power), with no more modules than UCIE_WIDTH and at no higher rate than UCIE_RATE, and one message goes
out for every chime bit that is set and not suppressed, in ascending order. An MSI-X table write stores address and data bytes as written and of
a vector control only bit 0. -/
def Obligations.HostLinkEvents : Prop :=
  ∀ s : State,
    (s.live = true → s.hif.up = true →
      exec .d3hot s = .next { s with pcie := { s.pcie with d3hot := true } } ∧
      exec .d0Return s = .next { s with pcie := { s.pcie with d3hot := false } } ∧
      exec .hifLinkDown s = .next (({ s with hif := { s.hif with up := false } }).logEvent 0 0 0xDA 0 0)) ∧
    (s.live = true → s.hif.up = false → s.cp.phase = 4 → ∀ modules rate : Nat, 1 ≤ modules → 1 ≤ s.field 0x0102 →
      ucieOk modules rate = true →
      ∃ t : State, exec (.ucieRetrainComplete modules rate) s = .next t ∧ t.hif.up = true ∧
        t.hif.modules = min modules (s.field 0x0102) ∧ t.hif.rate = min rate (s.field 0x0103) ∧
        t.hif.region = mountRegion (s.field 0x0100) ∧ t.hif.advOn = decide (s.field 0x0100 ≠ 2) ∧
        t.hif.stdOn = decide (s.field 0x0100 = 2) ∧ t.ep = s.ep ∧ t.kv = s.kv ∧
        t.dram = s.dram ∧ t.mb = s.mb ∧ t.bar = s.bar ∧
        t.out = s.out ++ ((setBits 64 s.bar.chimeStatus).filter (fun n => !s.suppressed n)).map .msix) ∧
    (s.barOpen = true → ∀ (off : Nat) (data : List Byte), off + data.length ≤ 1024 →
      ∃ t : State, exec (.msixTableWrite off data) s = .next t ∧ t.bar = s.bar ∧ t.mb = s.mb ∧ t.ep = s.ep ∧
        ∀ a, t.pcie.table.read a = if off ≤ a ∧ a < off + data.length then
          (if a % 16 < 12 then data.getD (a - off) 0 else if a % 16 = 12 then data.getD (a - off) 0 &&& 1 else 0)
          else s.pcie.table.read a)

/-- While the device runs: SETDASA from the static address 0x3A sets the dynamic address and one from another address
changes nothing. With a dynamic address: a private write of an offset below 0x1000 within mailbox 63 stores the offset and
writes the data there as the host would; a private read of n bytes that stay within mailbox 63 returns the mailbox's bytes
from the offset, which advances by n, and nothing else changes; a read of the 4 bytes of BEAT_NUMBER_LO returns the beat
number and latches its high half. -/
def Obligations.SidebandPortReachesMailbox : Prop :=
  ∀ s : State, s.live = true →
    (∀ d : BitVec 7, exec (.i3cSetdasa 0x3A d) s = .next { s with i3c := { s.i3c with dynAddr := some d } }) ∧
    (∀ a d : BitVec 7, a ≠ 0x3A → exec (.i3cSetdasa a d) s = .next s) ∧
    (s.i3c.dynAddr.isSome = true →
      (∀ (o : Nat) (data : List Byte), o + data.length ≤ 4096 → exec (.i3cPrivateWrite (natLe 2 o ++ data)) s =
        .next (({ s with i3c := { s.i3c with offset := o } }).mboxWrite 63 o data)) ∧
      (∀ n : Nat, s.i3c.offset + n ≤ 4096 → exec (.i3cPrivateRead n) s = .next { s with
        i3c := { s.i3c with offset := s.i3c.offset + n },
        out := s.out ++ [.data ((List.range n).map (fun i => (s.box 63).byte (s.i3c.offset + i))) false] }) ∧
      (s.i3c.offset = 0x1200 → ∃ t : State, exec (.i3cPrivateRead 4) s = .next t ∧
        t.out = s.out ++ [.data (natLe 4 (s.beatNo % 2 ^ 32)) false] ∧ t.bar.beatHi = s.beatNo / 2 ^ 32 % 65536 ∧
        t.i3c.offset = 0x1204))

/-- Logging an event from a source (kind, index below 64): the record counter rises by one; the last record holds source,
code, the beat number and phase, the data words and the source's sequence number, which then rises by one modulo 2^32; every
other source's number stands; the log keeps the latest 16,384 records in order; nothing else of the device changes. After
reset every source's number is 0 and the log is empty. -/
def Obligations.EventsAreRecorded : Prop :=
  (∀ (s : State) (kind index code d0 d1 : Nat), index < 64 → s.ev.recs.length ≤ 16384 →
    let t := s.logEvent kind index code d0 d1
    let r : EvRec := ⟨kind, index, Table.get 0 s.ev.seqs (kind * 64 + index), code, s.beatNo, s.phase, d0 % 2 ^ 32, d1 % 2 ^ 64⟩
    t = { s with ev := t.ev } ∧ t.ev.next = s.ev.next + 1 ∧ t.ev.recs.getLast? = some r ∧ t.ev.recs.length ≤ 16384 ∧
    (s.ev.recs.length < 16384 → t.ev.recs = s.ev.recs ++ [r]) ∧
    (s.ev.recs.length = 16384 → t.ev.recs = s.ev.recs.drop 1 ++ [r]) ∧
    Table.get 0 t.ev.seqs (kind * 64 + index) = (Table.get 0 s.ev.seqs (kind * 64 + index) + 1) % 2 ^ 32 ∧
    ∀ k, k ≠ kind * 64 + index → Table.get 0 t.ev.seqs k = Table.get 0 s.ev.seqs k) ∧
  State.reset.ev.recs = [] ∧ ∀ k, Table.get 0 State.reset.ev.seqs k = 0

/-- Given as their rule wants them, INFO of page 0 completes with status OK and the words NEXT_EPOCH, beat number, twin
status word and the packed state word followed by the pattern and the rudiment digest; TELEMETRY of a page with the page's
words. The packed word holds VMIN, the member index (0xFFFF outside a carillon), the link, the bank in use, membership, the
mounting, the SFU profile and the pattern state. TELEMETRY's first word is the beat number. G1's INFO returns the same
fields as 32-bit words with the digests whole, and G1's STATUS the words of TELEMETRY's page 0. -/
def Obligations.InfoReportsDevice : Prop :=
  ∀ (s : State) (n : Fin 64) (bs : List Byte),
    (Given s n 0x01 [0xFF] bs → bs.length = 8 → argW bs 0 = 0 →
      exec (.info n) s = .next (s.reply n.val stOk 0 (bytes64 s.infoWords ++ s.patDigest ++ s.rud.digest) 0)) ∧
    (Given s n 0x02 [0xFF] bs → bs.length = 8 → ∀ ws, s.telePage (argW bs 0) = some ws →
      exec (.telemetry n) s = .next (s.reply n.val stOk 0 (bytes64 ws) 0) ∧ ws.head? = some s.beatNo) ∧
    (GivenG1 s n 0x01 bs → bs.length = 0 → exec (.g1Info n) s =
      .next (s.reply n.val stOk 0 (s.infoFields.flatMap (natLe 4) ++ s.patDigest ++ s.rud.digest) 0)) ∧
    (GivenG1 s n 0x02 bs → bs.length = 0 → ∀ ws, s.telePage 0 = some ws →
      exec (.g1Status n) s = .next (s.reply n.val stOk 0 (ws.flatMap (natLe 4)) 0)) ∧
    s.infoWords.take 3 = [s.ep.next % 2 ^ 64, s.beatNo, s.twin.word] ∧
    (let z := s.infoWords.getD 3 0
     fld z 63 48 = s.pwr.vmin % 65536 ∧ (s.memberRec = none → fld z 47 32 = 0xFFFF) ∧
     (∀ r, s.memberRec = some r → fld z 47 32 = r.self) ∧ fld z 31 24 = s.hif.rev % 256 ∧ fld z 23 16 = s.hif.rate % 256 ∧
     fld z 15 8 = s.hif.modules % 256 ∧ fld z 7 6 = s.img.bank % 4 ∧ bitAt z 5 = s.car.member ∧
     fld z 4 3 = s.field 0x0100 % 4 ∧ fld z 2 2 = s.field 0x0160 % 2 ∧ fld z 1 0 = s.pat.st.code)

/-- With SNARE 0 and MAXREC from 1 to 16,384 the command completes with status OK, the position of the next record and the
records wanted, DETAIL 3 when CURSOR is older than the oldest kept. With SNARE 1 and a scatter list it returns the bytes of
the snare numbered by CURSOR. G1's LOG_READ returns the records of all sources, each field a 32-bit word. Reading from
position c for all sources, with at most m records, gives the log from the later of c and the oldest kept, m records of it,
and as the next position the one after the last record, or the end of the log where fewer than m are left. -/
def Obligations.EventLogIsRead : Prop :=
  (∀ (s : State) (n : Fin 64) (bs : List Byte), Given s n 0x03 [allBits, bits 32 0] bs → bs.length = 16 →
    (bitAt (argW bs 1) 32 = false → 1 ≤ fld (argW bs 1) 15 0 → fld (argW bs 1) 15 0 ≤ 16384 →
      let r := s.readLog (argW bs 0) (fld (argW bs 1) 15 0) (sourceWants (argW bs 1))
      exec (.eventLogRead n) s =
        .next (s.reply n.val stOk (if r.2.2 then 3 else 0) (bytes64 (r.1 :: r.2.1.flatMap EvRec.words)) 0)) ∧
    (bitAt (argW bs 1) 32 = true → (s.box n.val).sgl = true → ∀ e, s.ev.snares.find? (fun e => e.1 == argW bs 0) = some e →
      exec (.eventLogRead n) s = .next (s.reply n.val stOk 0 e.2 0))) ∧
  (∀ (s : State) (n : Fin 64) (bs : List Byte), GivenG1 s n 0x03 bs → bs.length = 8 → 1 ≤ g1F bs 1 15 → g1F bs 1 15 ≤ 16384 →
    let r := s.readLog (argG1 bs 0) (g1F bs 1 15) (fun _ => true)
    exec (.logRead n) s =
      .next (s.reply n.val stOk (if r.2.2 then 3 else 0) ((r.1 :: r.2.1.flatMap EvRec.fields).flatMap (natLe 4)) 0)) ∧
  (∀ (s : State) (c m : Nat), 1 ≤ m → s.ev.recs.length ≤ s.ev.next →
    let old := s.ev.next - s.ev.recs.length
    let rest := s.ev.recs.drop (max c old - old)
    s.readLog c m (fun _ => true) =
      (if rest.length < m then s.ev.next else max c old + m, rest.take m, decide (c < old)))

/-- IMAGE_READ of bytes within a bank, or within the resolved image, completes OK with them; IMAGE_WRITE within the staging
bank stores its data there alone, ends an authorisation and completes OK; the staging bank is a user bank and never the
valid one (in a state that meets the invariant). IMAGE_COMMIT of a whole, accepted staging bank whose record reads back at
the first or the second writing completes OK with the staging bank valid, the former valid bank as PREV, COUNT one higher
and the bank's owner key and policy in force; with a second failure it is REJECTED with DETAIL 5; one whose structure fails
is REJECTED and one that is not accepted is AUTH_FAIL, logged when its signature failed; the current record stands in all
three. IMAGE_REVERT with FACTORY 0, PREV's digest as recorded and PREV's owner key the one in force (or none in force)
makes PREV valid and completes OK, and with FACTORY 1 and no owner key in force bank F. G1's CFG_READ and CFG_WRITE do the
same with host buffers, and CFG_COMMIT commits a whole, accepted staging bank whose record reads back. -/
def Obligations.ImageCommandsActOnStagingBank : Prop :=
  ∀ (s : State) (n : Fin 64) (bs : List Byte),
    (Given s n 0x10 [place 0xFFFFFFFF 32 + 3, 0xFFFFFFFF] bs → bs.length = 16 →
      let bank := fld (argW bs 0) 1 0
      let off := fld (argW bs 0) 63 32
      let len := fld (argW bs 1) 31 0
      (bank ≠ 3 → off + len ≤ bankBytes → exec (.imageRead n) s = .next (s.reply n.val stOk 0 (s.bankN bank off len) 0)) ∧
      (bank = 3 → off + len ≤ s.resolved.length →
        exec (.imageRead n) s = .next (s.reply n.val stOk 0 ((s.resolved.drop off).take len) 0))) ∧
    (Given s n 0x11 [place 0xFFFFFFFF 32] bs → 8 ≤ bs.length → fld (argW bs 0) 63 32 + (bs.length - 8) ≤ bankBytes →
      let w := s.setBank s.staging ((s.bankMem s.staging).writeN (fld (argW bs 0) 63 32) (bs.drop 8))
      exec (.imageWrite n) s = .next (({ w with img := { w.img with auth := none } }).reply n.val stOk 0 [] 0)) ∧
    (Sound s → (s.staging = 1 ∨ s.staging = 2) ∧ s.staging ≠ s.validBank) ∧
    (Given s n 0x12 [] bs → bs.length = 0 → imgOk (s.bankMem s.staging) = true → (s.imageAccepted (s.bankMem s.staging)).1 = true →
      exec (.imageCommit n 0) s =
        .next (((s.writeCommit s.staging s.validBank).setOwner s.staging).reply n.val stOk 0 [] 1) ∧
      exec (.imageCommit n 1) s =
        .next (((s.takeSlot.writeCommit s.staging s.validBank).setOwner s.staging).reply n.val stOk 0 [] 1) ∧
      ∀ k, exec (.imageCommit n (k + 2)) s = .next (s.takeSlot.takeSlot.reply n.val stRejected 5 [] 0)) ∧
    s.takeSlot.commitRec = s.commitRec ∧
    (∀ v p, (s.writeCommit v p).validBank = v ∧ (s.writeCommit v p).prevBank = p ∧
      (s.writeCommit v p).commitCount = s.commitCount + 1 ∧
      ((s.writeCommit v p).setOwner v).sec.ownerKey = (s.bankOwner v).1 ∧
      ((s.writeCommit v p).setOwner v).sec.unsignedOk = (s.bankOwner v).2 ∧
      ((s.writeCommit v p).setOwner v).commitRec = (s.writeCommit v p).commitRec) ∧
    (Given s n 0x12 [] bs → bs.length = 0 → imgOk (s.bankMem s.staging) = false → ∀ k,
      exec (.imageCommit n k) s = .next (s.reply n.val stRejected 0 [] 0)) ∧
    (Given s n 0x12 [] bs → bs.length = 0 → imgOk (s.bankMem s.staging) = true → (s.imageAccepted (s.bankMem s.staging)).1 = false →
      ∀ k, exec (.imageCommit n k) s = .next
        ((if (s.imageAccepted (s.bankMem s.staging)).2 then s.logEvent 0 0 0xB2 0x12 0 else s).reply n.val stAuthFail 0 [] 0)) ∧
    (Given s n 0x13 [1] bs → bs.length = 8 → argW bs 0 = 0 → s.prevBank ≠ 0 →
      (s.sec.ownerKey = none ∨ ownerKeyOf (s.bankMem s.prevBank) = s.sec.ownerKey) →
      (∀ r, s.commitRec = some r → imgDigest 16 (s.bankMem r.2.1) = r.2.2.2.2) →
      exec (.imageRevert n) s = .next (((s.writeCommit s.prevBank s.validBank).setOwner s.prevBank).reply n.val stOk 0 [] 0)) ∧
    (Given s n 0x13 [1] bs → bs.length = 8 → argW bs 0 = 1 → s.sec.ownerKey = none →
      exec (.imageRevert n) s = .next (((s.writeCommit 0 s.validBank).setOwner 0).reply n.val stOk 0 [] 0)) ∧
    (GivenG1 s n 0x08 bs → bs.length = 16 → ∀ r w,
      s.imageBytes (g1F bs 0 1) (argG1 bs 1) (4 * fld (argG1 bs 3) 23 0) = some r → s.hostWrite (argG1 bs 2) r = some w →
      exec (.cfgRead n) s = .next (w.finish n.val stOk 0 r.length 0 [])) ∧
    (GivenG1 s n 0x09 bs → bs.length = 12 → ∀ data,
      s.hostRead (argG1 bs 1) (4 * fld (argG1 bs 2) 23 0) = some data → argG1 bs 0 + data.length ≤ bankBytes →
      let w := s.setBank s.staging ((s.bankMem s.staging).writeN (argG1 bs 0) data)
      exec (.cfgWrite n) s = .next (({ w with img := { w.img with auth := none } }).reply n.val stOk 0 [] 0)) ∧
    (GivenG1 s n 0x0A bs → bs.length = 0 → imgOk (s.bankMem s.staging) = true → (s.imageAccepted (s.bankMem s.staging)).1 = true →
      exec (.cfgCommit n 0) s = .next (((s.writeCommit s.staging s.validBank).setOwner s.staging).reply n.val stOk 0 [] 1))

/-- With no owner key in force (in a state that meets the invariant) an unsigned image is accepted and a signed one is not.
With a key and UNSIGNED_OK 0, an image is accepted exactly when it is the authorised one or its signature verifies under the
key and the context FOPRA-IMAGE; with UNSIGNED_OK 1 unsigned ones are accepted too. OWNER_KEY_SET without a key in force,
or with a signature under the key in force, the context FOPRA-OWNER and the commit count, completes OK: the staging bank
begins with an unsigned image of the key and the policy given beside the other fields of the valid bank, and its digest is
the authorised one (where that image fits the bank and holds at most 4,096 fields). With another signature it answers
AUTH_FAIL with the staging bank as it was. -/
def Obligations.OwnerKeyRules : Prop :=
  (∀ (s : State) (m : Mem), imgOk m = true → s.img.auth ≠ some (imgDigest 32 m) →
    (Sound s → s.sec.ownerKey = none → ((s.imageAccepted m).1 = true ↔ (imgHdr m).siglen = 0)) ∧
    (∀ k, s.sec.ownerKey = some k → (imgHdr m).siglen = 0 → ((s.imageAccepted m).1 = true ↔ s.sec.unsignedOk = true)) ∧
    (∀ k, s.sec.ownerKey = some k → (imgHdr m).siglen ≠ 0 → ((s.imageAccepted m).1 = true ↔
      Config.slhVerify k (ascii "FOPRA-IMAGE") (m.readN 0 (imgHdr m).bodylen) (m.readN (imgHdr m).bodylen sigBytes) = true))) ∧
  (∀ (s : State) (m : Mem), s.img.auth = some (imgDigest 32 m) → (imgHdr m).siglen = 0 → (s.imageAccepted m).1 = true) ∧
  (∀ (s : State) (n : Fin 64) (bs : List Byte),
    Given s n 0x22 [allBits, allBits, allBits, allBits, allBits, allBits, allBits, allBits, 1] bs →
    let es := s.ownerEntries (bs.take 64) (argW bs 8)
    let image := imgBytes 1 es
    ((0x0170, bs.take 64) ∈ es ∧ (0x0171, natLe 4 (argW bs 8)) ∈ es ∧
      (∀ e ∈ es, (e.1 = 0x0170 → e.2 = bs.take 64) ∧ (e.1 = 0x0171 → e.2 = natLe 4 (argW bs 8))) ∧
      ∀ k v, k ≠ 0x0170 → k ≠ 0x0171 → ((k, v) ∈ es ↔ s.validBank ≠ 0 ∧ ∃ e ∈ entriesOf (s.bankMem s.validBank),
        e.key = k ∧ v = (s.bankMem s.validBank).readN e.off e.len)) ∧
    (es.length ≤ 4096 → image.length ≤ bankBytes →
      (s.sec.ownerKey = none ∧ bs.length = 72 ∨ (∃ k, s.sec.ownerKey = some k ∧ bs.length = 72 + sigBytes ∧
        Config.slhVerify k (ascii "FOPRA-OWNER" ++ natLe 8 s.commitCount) (bs.take 72) (bs.drop 72) = true)) →
      let w := s.setBank s.staging ((s.bankMem s.staging).writeN 0 image)
      exec (.ownerKeySet n) s =
        .next (({ w with img := { w.img with auth := some (shake256 32 image) } }).reply n.val stOk 0 [] 0)) ∧
    (∀ k, s.sec.ownerKey = some k → bs.length = 72 + sigBytes →
      Config.slhVerify k (ascii "FOPRA-OWNER" ++ natLe 8 s.commitCount) (bs.take 72) (bs.drop 72) = false →
      exec (.ownerKeySet n) s = .next ((s.logEvent 0 0 0xB2 0x22 0).reply n.val stAuthFail 0 [] 0)))

/-- With the identity derived and the key held, ATTEST with a nonce of 32 bytes and a scatter list completes with status OK
and the 384-byte body followed by the signature of that body, and counts the report; with digests of 32 bytes the body is
384 bytes, bytes 64 to 95 are the nonce, and bytes 256 to 351 the pattern, rudiment and owner key measurements. Without the
identity it completes with NOT_IN_STATE. IDENTITY_CERT with a scatter list returns the certificate of bank F,
29,920 bytes that begin with the four words of Table 20.2 (the serial number is the part's). -/
def Obligations.AttestationReportsState : Prop :=
  ∀ (s : State) (n : Fin 64) (bs : List Byte),
    (Given s n 0x20 [] bs → s.sec.idOk = true → s.sec.keyHeld = true → bs.length = 32 → (s.box n.val).sgl = true →
      exec (.attest n) s = .next (({ s with sec := { s.sec with reports := s.sec.reports + 1 } }).reply n.val stOk 0
        (s.reportBody bs ++ (List.range 49856).map (Config.identitySign (s.reportBody bs))) 0)) ∧
    (Given s n 0x20 [] bs → s.sec.idOk = false → exec (.attest n) s = .next (s.reply n.val stNotInState 0 [] 0)) ∧
    (Given s n 0x21 [] bs → bs.length = 0 → (s.box n.val).sgl = true →
      exec (.identityCert n) s = .next (s.reply n.val stOk 0 idCert 0)) ∧
    (idCert.length = 29920 ∧ idCert.take 16 = bytes64 [0x0F24CE4700010000, 128 * 2 ^ 32 + 29792] ∧
      (idCert.drop 24).take 8 = natLe 8 0xF024A00000000000 ∧ (idCert.drop 32).take 64 = idKey ∧
      (idCert.drop 96).take 32 = shake256 16 Config.caKey ++ List.replicate 16 0) ∧
    (bs.length = 32 → s.pat.digest.length = 32 → s.rud.digest.length = 32 →
      (s.reportBody bs).length = 384 ∧ ((s.reportBody bs).drop 64).take 32 = bs ∧
      ((s.reportBody bs).drop 256).take 96 = s.patDigest ++ s.rud.digest ++ keyMeasure s.sec.ownerKey)

/-- PATTERN_LOAD of an image that keeps R486 to R488 and whose pool holds every frame in use stores it, answers its digest
and leaves LOADED; PATTERN_VERIFY of an image with no failure leaves VERIFIED, and of one with a failure answers REJECTED
with the failure's word; an image or a package with a reserved field not 0 is BAD_ARG (G2); PATTERN_START of a verified pattern whose rudiment digest is the package's loads every core and
leaves STARTED; PATTERN_STOP with no epoch begun leaves VERIFIED. Each completes with what it answers. A command that is
refused leaves pattern and state as they were. After reset the state is NONE. -/
def Obligations.PatternCommandsStepStates : Prop :=
  (∀ (s : State) (n : Fin 64) (bs : List Byte),
    (Given s n 0x30 [] bs → patHeaderRsv bs = false → exec (.patternLoad n) s = .next ((s.patternLoad bs).reply n.val)) ∧
    (Given s n 0x30 [] bs → patHeaderRsv bs = true → exec (.patternLoad n) s = .next (s.reply n.val stBadArg 0xFFFF [] 0)) ∧
    (Given s n 0x31 [] bs → (s.pat.st = .loaded ∨ s.pat.st = .verified) → bs.length = 0 →
      exec (.patternVerify n) s = .next (s.patternVerify.1.reply n.val)) ∧
    (Given s n 0x32 [] bs → s.pat.st = .verified → bs.length = 0 → exec (.patternStart n) s = .next (s.patternStart.reply n.val)) ∧
    (Given s n 0x33 [] bs → s.pat.st = .started → s.ep.st = .idle → bs.length = 0 →
      exec (.patternStop n) s = .next (s.patternStop.reply n.val)) ∧
    (Given s n 0x34 [] bs → rudRsv bs = false → exec (.rudimentLoad n) s = .next ((s.rudimentLoad bs).reply n.val)) ∧
    (Given s n 0x34 [] bs → rudRsv bs = true → exec (.rudimentLoad n) s = .next (s.reply n.val stBadArg 0 [] 0)) ∧
    (GivenG1 s n 0x10 bs → bs.length = 8 → ∀ img, s.hostRead (argG1 bs 0) (4 * fld (argG1 bs 1) 23 0) = some img →
      exec (.modelLoad n) s = .next ((s.patternLoad img).reply n.val)) ∧
    (GivenG1 s n 0x11 bs → (s.pat.st = .loaded ∨ s.pat.st = .verified) → bs.length = 0 →
      exec (.modelCheck n) s = .next (s.patternVerify.1.s.reply n.val s.patternVerify.1.code s.patternVerify.1.detail
        ((words64 s.patternVerify.1.bytes).flatMap (fun z => (verifyFields z).flatMap (natLe 4))) 0)) ∧
    (GivenG1 s n 0x12 bs → s.pat.st = .verified → bs.length = 0 → exec (.runStart n) s = .next (s.patternStart.g1Reply n.val)) ∧
    (GivenG1 s n 0x13 bs → s.pat.st = .started → s.ep.st = .idle → bs.length = 0 →
      exec (.runStop n) s = .next (s.patternStop.g1Reply n.val))) ∧
  (∀ (s : State) (img : List Byte), s.pat.st ≠ .started → patBad img = none → s.poolHolds img = true →
    (s.patternLoad img).code = stOk ∧ (s.patternLoad img).bytes = shake256 32 img ∧
    (s.patternLoad img).s.pat = ⟨.loaded, img, shake256 32 img⟩) ∧
  (∀ s : State, (s.pat.st = .loaded ∨ s.pat.st = .verified) →
    (s.verify = none → s.patternVerify.1 = Ans.ok { s with pat := { s.pat with st := .verified } } (bytes64 [0])) ∧
    (∀ f, s.verify = some f → s.patternVerify.1 = ⟨s, stRejected, 0, bytes64 [f.word]⟩)) ∧
  (∀ s : State, s.pat.st = .verified → (s.pat.image.drop 40).take 32 = s.rud.digest →
    s.patternStart.code = stOk ∧ s.patternStart.s.pat = { s.pat with st := .started } ∧
    ∀ c < 64, s.patternStart.s.core c = loadCore s.pat.image s.now c (s.core c)) ∧
  (∀ s : State, s.pat.st = .started → s.ep.st = .idle →
    s.patternStop.code = stOk ∧ s.patternStop.s.pat = { s.pat with st := .verified }) ∧
  (∀ (s : State) (bs : List Byte),
    ((s.patternLoad bs).code ≠ stOk → (s.patternLoad bs).s.pat = s.pat) ∧
    (s.patternVerify.1.code ≠ stOk → s.patternVerify.1.s.pat = s.pat) ∧
    (s.patternStart.code ≠ stOk → s.patternStart.s.pat = s.pat) ∧ (s.patternStop.code ≠ stOk → s.patternStop.s.pat = s.pat) ∧
    ((s.rudimentLoad bs).code ≠ stOk → (s.rudimentLoad bs).s.pat = s.pat ∧ (s.rudimentLoad bs).s.rud = s.rud) ∧
    ((s.rudimentLoad bs).code = stOk → s.pat.st = .verified → (s.rudimentLoad bs).s.pat.st = .loaded)) ∧
  State.reset.pat.st = .none

/-- Between steps a SEQ_OPEN without a shared prefix that no check refuses completes OK with the header built from its words:
the sequence is open with COMMITTED and PROV 0 and MAXLEN as asked; every other sequence, every page record and DRAM stand.
A SEQ_APPEND that no check refuses takes its pins; with no promotion awaited it copies at once, otherwise it waits with its
pins. Copying from readable host memory adds n to COMMITTED and 1 to GEN. SEQ_CLOSE of an open sequence that no step uses,
with no command in progress, completes OK, closed and with no page mapped. SEQ_NEW, SEQ_PUT and SEQ_FREE of G1 act as these.
While a step runs an open and an append that are not refused wait as jobs, which go on once it has ended, and a close stays
in its mailbox (log 95). -/
def Obligations.SequencesOpenAppendClose : Prop :=
  (∀ (s : State) (n : Fin 64) (bs : List Byte),
    (Given s n 0x40 openMasks bs → s.seqReady n.val .seqOpen = none → s.seqFree_ (fld (argW bs 0) 15 0) n.val = true →
      32 ≤ bs.length → bs.length % 8 = 0 → s.openRefuse (words64 bs) = none → bitAt ((words64 bs).getD 0 0) 16 = false →
      (s.running = true → exec (.seqOpen n) s = .next (s.await n.val .seqOpen [] [] (words64 bs))) ∧
      (s.running = false → ∃ w : State,
        let ws := words64 bs
        let h := headerOf (ws.getD 1 0) (ws.getD 2 0) (ws.getD 3 0)
        exec (.seqOpen n) s = .next (w.answer n.val stOk 0 (bytes64 h) (headerFields h)) ∧
        w.lens (openSeqOf ws) = ⟨0, 0, true, fld (ws.getD 1 0) 63 32⟩ ∧ w.hdr (openSeqOf ws) = h ∧
        (∀ q, q ≠ openSeqOf ws → w.lens q = s.lens q) ∧ w.kv.recs = s.kv.recs ∧ w.dram = s.dram)) ∧
    (∀ b, Given s n 0x41 [bits 63 32 + bits 15 0, allBits, allBits] bs → s.seqReady n.val .append = none → bs.length = 24 →
      let seq := fld (argW bs 0) 15 0
      s.seqFree_ seq n.val = true → exec (.seqAppend n b) s =
        .next (s.appendGo n.val seq (fld (argW bs 0) 63 32) (argW bs 1) (argW bs 2) b)) ∧
    (Given s n 0x42 [bits 15 0] bs → bs.length = 8 →
      (s.closeWaits (fld (argW bs 0) 15 0) = false →
        exec (.seqClose n) s = .next ((s.seqClose (fld (argW bs 0) 15 0)).reply n.val)) ∧
      (s.closeWaits (fld (argW bs 0) 15 0) = true → exec (.seqClose n) s = .next s)) ∧
    (GivenG1 s n 0x20 bs → s.seqReady n.val .seqOpen = none → s.seqFree_ (g1F bs 0 7) n.val = true → bs.length = 12 →
      exec (.seqNew n) s = .next (s.openGo n.val (seqNewWords (g1F bs 0 7) (g1F bs 1 23) (g1F bs 2 27)))) ∧
    (∀ b, GivenG1 s n 0x21 bs → s.seqReady n.val .append = none → s.seqFree_ (g1F bs 0 7) n.val = true → bs.length = 16 →
      exec (.seqPut n b) s = .next (s.appendGo n.val (g1F bs 0 7) (g1F bs 1 23) (argG1 bs 2) (4 * fld (argG1 bs 3) 23 0) b)) ∧
    (GivenG1 s n 0x22 bs → bs.length = 4 →
      (s.closeWaits (g1F bs 0 7) = false → exec (.seqFree n) s = .next ((s.seqClose (g1F bs 0 7)).g1Reply n.val)) ∧
      (s.closeWaits (g1F bs 0 7) = true → exec (.seqFree n) s = .next s))) ∧
  (∀ (s : State) (n : Fin 64) (b : Bool) (j : Job),
    (s.seqReady n.val .seqOpen = some j →
      (s.running = false → exec (.seqOpen n) s = .next (s.openGo n.val j.args) ∧
        exec (.seqNew n) s = .next (s.openGo n.val j.args)) ∧
      (s.running = true → exec (.seqOpen n) s = .next s)) ∧
    (s.seqReady n.val .append = some j →
      (s.running = false → ∀ x, x = Instr.seqAppend n b ∨ x = Instr.seqPut n b → exec x s =
        .next (s.appendNow n.val (j.args.getD 0 0) (j.args.getD 1 0) (j.args.getD 2 0) (j.args.getD 3 0 == 1) j.units)) ∧
      (s.running = true → exec (.seqAppend n b) s = .next s))) ∧
  (∀ (s : State) (n seq cnt addr bytes : Nat) (b : Bool), seq < 4096 → (s.lens seq).isOpen = true → (s.lens seq).prov = 0 →
    s.stepNames seq = false → cnt ≠ 0 → (s.lens seq).committed + cnt ≤ (s.lens seq).maxlen →
    bytes = (geomOf (s.hdr seq)).appendBytes (s.lens seq).committed cnt →
    let a := PagePrep.range ⟨s, [], 0⟩ seq cnt
    a.code = 0 →
      (a.waits = [] → s.running = false → s.appendGo n seq cnt addr bytes b = a.s.appendNow n seq cnt addr b a.took) ∧
      (a.waits ≠ [] ∨ s.running = true →
        s.appendGo n seq cnt addr bytes b = a.s.await n .append a.took a.waits [seq, cnt, addr, b2n b])) ∧
  (∀ (s : State) (n seq cnt addr : Nat) (b : Bool) (took : List (Nat × Option Nat)) (data : List Byte),
    s.hostRead addr ((geomOf (s.hdr seq)).appendBytes (s.lens seq).committed cnt) = some data → (s.hdr seq).length = 8 →
    (s.lens seq).isOpen = true →
    ∃ w : State, s.appendNow n seq cnt addr b took = w.endAppend n seq 0 b ∧
      w.lens seq = { s.lens seq with committed := (s.lens seq).committed + cnt } ∧
      hdrGen (w.hdr seq) = (hdrGen (s.hdr seq) + 1) % 2 ^ 32 ∧ ∀ q, q ≠ seq → w.lens q = s.lens q) ∧
  (∀ (s : State) (seq : Nat), seq < 4096 → (s.lens seq).isOpen = true → s.stepNames seq = false →
    s.mb.jobs = [] →
    (s.seqClose seq).code = stOk ∧ ((s.seqClose seq).s.lens seq).isOpen = false ∧ (s.seqClose seq).s.regionPages seq = [])

/-- For a count of 1 to 254 entries within the table, SEQ_LENGTHS completes OK with, for each sequence, the words PROV over
COMMITTED and OPEN over MAXLEN. G1's SEQ_LEN returns one word per entry with OPEN in bit 48 and both lengths clipped to 24
bits, with DETAIL 4 when one was above. -/
def Obligations.SequenceLengthsAreTable72 : Prop :=
  ∀ (s : State) (n : Fin 64) (bs : List Byte),
    (Given s n 0x43 [bits 31 0] bs → bs.length = 8 →
      let first := fld (argW bs 0) 15 0
      let cnt := fld (argW bs 0) 31 16
      1 ≤ cnt → cnt ≤ 254 → first + cnt ≤ 4096 →
      exec (.seqLengths n) s = .next (s.reply n.val stOk 0 (bytes64 ((List.range cnt).flatMap (fun i =>
        let l := s.lens (first + i)
        [l.prov * 2 ^ 32 + l.committed, (if l.isOpen then 2 ^ 32 else 0) + l.maxlen]))) 0)) ∧
    (GivenG1 s n 0x23 bs → bs.length = 4 →
      let first := fld (argG1 bs 0) 7 0
      let cnt := fld (argG1 bs 0) 15 8
      1 ≤ cnt → cnt ≤ 254 → first + cnt ≤ 256 →
      let ls := (List.range cnt).map (fun i => s.lens (first + i))
      exec (.seqLen n) s = .next (s.reply n.val stOk
        (if ls.any (fun l => decide (0xFFFFFF < l.committed) || decide (0xFFFFFF < l.maxlen)) then 4 else 0)
        (bytes64 (ls.map (fun l => (if l.isOpen then 2 ^ 48 else 0) + min l.maxlen 0xFFFFFF * 2 ^ 24 + min l.committed 0xFFFFFF)))
        0))

/-- A STEP_RUN of proper form that no check refuses pins the pages of its provisional positions. With no promotion and no
rewrite of a failed burst awaited the step starts (its sequences distinct and open): the state is RUNNING, NEXT_EPOCH and COMMITTED stand, PROV of each named
sequence is its count, poison is clear, the pins are held, and every participating core is at the first op of its list with
flag word 0; the counters of every core come from the pattern. With either awaited the epoch state stays and the command waits with its
pins; with a page that cannot be had, it fails with its pins released. A check that refuses it is answered and changes no
sequence. INFER of G1 runs a step of NEXT_EPOCH with one sequence. -/
def Obligations.StepRunStartsEpoch : Prop :=
  (∀ (s : State) (n : Fin 64) (t : Nat) (bs : List Byte), Given (s.at t) n 0x50 [allBits, bits 15 0] bs →
    stepReserved (words64 bs) = false → stepForm (words64 bs) bs.length = true →
    exec (.stepRun n t) s = .next ((s.at t).stepGo n.val (words64 bs))) ∧
  (∀ (s : State) (n : Fin 64) (t : Nat) (bs : List Byte), GivenG1 (s.at t) n 0x30 bs → bs.length = 8 →
    exec (.infer n t) s =
      .next ((s.at t).stepGo n.val [s.ep.next, 1, place (g1F bs 1 23) 32 + g1F bs 0 7])) ∧
  (∀ (s : State) (n : Nat) (ws : List Nat),
    (∀ c, s.stepRefuse n ws = some c → s.stepGo n ws = s.reply n c 0 [] 0) ∧
    (s.stepRefuse n ws = none →
      let a := (stepSeqs ws).foldl (fun (a : PagePrep) e => a.range e.1 e.2) ⟨s, [], 0⟩
      (a.code = 0 → a.waits = [] → a.s.dram.rewrite = [] → s.stepGo n ws = a.s.beginStep n ws (a.took.map Prod.fst)) ∧
      (a.code = 0 → (a.waits ≠ [] ∨ a.s.dram.rewrite ≠ []) → s.stepGo n ws = a.s.await n .stepWait a.took a.waits ws) ∧
      (a.code ≠ 0 → s.stepGo n ws = (a.s.undoPins a.took).reply n a.code 0 [] 0))) ∧
  (∀ (s : State) (n : Nat) (ws : List Nat) (pins : List Nat), ((stepSeqs ws).map Prod.fst).Nodup →
    (∀ e ∈ stepSeqs ws, (s.lens e.1).isOpen = true) →
    let t := s.beginStep n ws pins
    t.ep.st = .running ∧ t.ep.next = s.ep.next ∧ t.ep.seqs = stepSeqs ws ∧ t.ep.pins = pins ∧ t.ep.poison = false ∧
    t.ep.knell = none ∧ (∃ j ∈ t.mb.jobs, j.n = n ∧ j.kind = .step) ∧
    (∀ e ∈ stepSeqs ws, t.lens e.1 = { s.lens e.1 with prov := e.2 }) ∧
    (∀ q, q ∉ (stepSeqs ws).map Prod.fst → t.lens q = s.lens q) ∧
    (∀ c < 64, ∀ p < 64, (t.core c).sem p false = declFull s.pat.image c p ∧
      (t.core c).sem p true = declEmpty s.pat.image c p) ∧
    ∀ c ∈ s.participants, c < 64 → (t.core c).csq = .running ∧ (t.core c).pc = 0 ∧ (t.core c).flags = 0 ∧
      (t.core c).done = false ∧ (t.core c).ctl = (s.core c).ctl)

/-- A STEP_COMMIT of proper form at the lead, for the current epoch in DONE and counts of at most PROV for exactly the
step's sequences, waits as the commit in progress with one PREPARE notice to every member that names the epoch and the
counts; the epoch state stands. One that a check refuses is answered and nothing else changes. A STEP_ABORT of the current
epoch in RUNNING or DONE waits and raises the knell with cause 0x0A. ACCEPT and CANCEL of G1 act as these for NEXT_EPOCH. -/
def Obligations.StepCommitAndAbort : Prop :=
  (∀ (s : State) (n : Fin 64) (t : Nat) (bs : List Byte), Given (s.at t) n 0x51 [allBits, bits 15 0] bs →
    stepReserved (words64 bs) = false → stepForm (words64 bs) bs.length = true → fld ((words64 bs).getD 1 0) 15 8 = 0 →
    exec (.stepCommit n t) s = .next ((s.at t).stepCommit n.val (argW bs 0) (stepSeqs (words64 bs)))) ∧
  (∀ (s : State) (n : Fin 64) (t : Nat) (bs : List Byte), GivenG1 (s.at t) n 0x31 bs → bs.length = 8 →
    exec (.accept n t) s = .next ((s.at t).stepCommit n.val s.ep.next [(g1F bs 0 7, g1F bs 1 23)])) ∧
  (∀ (s : State) (n e : Nat) (cs : List (Nat × Nat)),
    (s.commitRefuse e cs = none → ∃ t : State, s.stepCommit n e cs = t ∧ t.ep = s.ep ∧ t.kv = s.kv ∧ t.lead.counts = cs ∧
      t.lead.votes = [] ∧ t.lead.decided = none ∧ (∃ j ∈ t.mb.jobs, j.n = n ∧ j.kind = .commit) ∧
      t.out = s.out ++ s.members.map (fun m => .notice "PREPARE" m (e :: cs.flatMap (fun c => [c.1, c.2])))) ∧
    (∀ c, s.commitRefuse e cs = some c → s.stepCommit n e cs = s.reply n c 0 [] 0)) ∧
  (∀ (s : State) (n : Fin 64) (t : Nat) (bs : List Byte), Given (s.at t) n 0x52 [allBits] bs → bs.length = 8 →
    (s.ep.st = .running ∨ s.ep.st = .done) → argW bs 0 = s.ep.next →
    exec (.stepAbort n t) s = .next (((s.at t).await n.val .abort [] [] [s.ep.next]).raiseKnell 0x0A 0 4 n.val)) ∧
  (∀ (s : State) (n : Fin 64) (t : Nat) (bs : List Byte), GivenG1 (s.at t) n 0x32 bs → bs.length = 0 →
    (s.ep.st = .running ∨ s.ep.st = .done) →
    exec (.cancel n t) s = .next (((s.at t).await n.val .abort [] [] [s.ep.next]).raiseKnell 0x0A 0 4 n.val))

/-- Each tier command that no check refuses works on its pages in ascending order and completes when every unit has its
outcome. Per page: a prefetch of a page in HOST takes a frame and makes it PROMOTING, one in DEVICE is done; an eviction of
a clean page in DEVICE without pins and with a home, that no command waits on, puts it in HOST at once, a dirty one becomes
EVICTING, one without a home is NO_RESOURCE, a pinned one NOT_IN_STATE; a forced eviction of a page being promoted, or
pinned in DEVICE, sets EVPEND and stays open; a pin adds one to PIN and abandons an eviction in progress, with NO_RESOURCE
at 65,535; an unpin takes one away (a page with EVPEND set and no other pin then moves on, R196), with NOT_IN_STATE at 0. -/
def Obligations.TierCommandsWorkPageByPage : Prop :=
  (∀ (s : State) (n : Fin 64) (t : Nat) (bs : List Byte), s.tierRefuse (tierArgs bs) bs.length = none →
    let a := tierArgs bs
    (Given s n 0x60 (tierMasks false) bs →
      let x := s.tierUnits a.seq a.first a.count stNotInState State.prefetchPage
      exec (.tierPrefetch n) s = .next (x.1.tierEnd n.val .tierPrefetch x.2 none false)) ∧
    (Given s n 0x62 (tierMasks false) bs →
      let x := s.tierUnits a.seq a.first a.count stNotInState State.pinUnit
      exec (.tierPin n) s = .next (x.1.tierEnd n.val .tierPrefetch x.2 none false)) ∧
    (Given s n 0x63 (tierMasks false) bs →
      let x := s.tierUnits a.seq a.first a.count stNotInState State.unpinUnit
      exec (.tierUnpin n) s = .next (x.1.tierEnd n.val .tierPrefetch x.2 none false)) ∧
    (Given (s.at t) n 0x61 (tierMasks true) bs → a.force = false →
      let x := (s.at t).tierUnits a.seq a.first a.count stOk State.evictPage
      exec (.tierEvict n t) s = .next (x.1.tierEnd n.val .tierEvict x.2 none false)) ∧
    (Given (s.at t) n 0x61 (tierMasks true) bs → a.force = true →
      let x := (s.at t).tierUnits a.seq a.first a.count stOk State.forcePage
      exec (.tierEvict n t) s = .next (x.1.tierEnd n.val .tierEvict x.2
        (some ((s.at t).now + (if a.limit = 0 then 100 else a.limit) * 100000000)) true))) ∧
  (∀ (s : State) (r : Nat) (p : Page), s.page r = some p →
    (p.st = 0 → ∀ f, s.freeFrame = some f →
      (s.prefetchPage r).2 = none ∧ (s.prefetchPage r).1.page r = some { p with st := 1, frame := f }) ∧
    (p.st = 2 → s.prefetchPage r = (s, some stOk)) ∧
    (p.st = 2 → p.home = 0 → s.evictPage r = (s, some stNoResource)) ∧
    (p.st = 2 → p.home ≠ 0 → p.pin ≠ 0 → s.evictPage r = (s, some stNotInState)) ∧
    (p.st = 2 → p.home ≠ 0 → p.pin = 0 → p.dirty = true →
      (s.evictPage r).2 = none ∧ (s.evictPage r).1.page r = some { p with st := 3, forced := p.evpend, evpend := false }) ∧
    (p.st = 2 → p.home ≠ 0 → p.pin = 0 → p.dirty = false → s.mb.jobs = [] →
      (s.evictPage r).2 = some stOk ∧ (s.evictPage r).1.page r =
        some { p with st := 0, frame := 0, evpend := false, forced := false, inflight := 0 }) ∧
    ((p.st = 1 ∨ (p.st = 2 ∧ p.home ≠ 0 ∧ p.pin ≠ 0)) →
      (s.forcePage r).2 = none ∧ (s.forcePage r).1.page r = some { p with evpend := true }) ∧
    (p.pin < 65535 → p.st ≠ 3 → (s.pinUnit r).2 = some stOk ∧ (s.pinUnit r).1.page r = some { p with pin := p.pin + 1 }) ∧
    (65535 ≤ p.pin → s.pinUnit r = (s, some stNoResource)) ∧
    (p.st = 3 → p.pin < 65535 → s.mb.jobs = [] → (s.pinUnit r).1.page r =
      some { p with st := 2, evpend := p.forced, forced := false, prefetch := false, pin := p.pin + 1 }) ∧
    (p.pin = 0 → s.unpinUnit r = (s, some stNotInState)) ∧
    (0 < p.pin → (1 < p.pin ∨ p.evpend = false) → (s.unpinUnit r).2 = some stOk ∧ (s.unpinUnit r).1.page r = some { p with pin := p.pin - 1 }))

/-- For a page record that some region maps, with no command and no stream waiting on it, in a state that meets the
invariant: while DRAM is open, the end of its promotion from readable host memory, a copy in flight, leaves it in DEVICE,
clean, its frame holding the bytes of its home; an error of that promotion leaves it in HOST, logged. The end of an eviction
in flight to writable host memory, with no prefetch waiting, leaves it in HOST with its home holding the bytes of its frame
where no symbol error stands; an error leaves it in DEVICE and dirty, logged. A copy that is not in flight does not end. The
last write in flight ends, and a page with EVPEND set and no pin moves on: EVICTING when dirty, HOST when clean. The time
limit of a forced eviction gives its open unit TIMEOUT and clears EVPEND. -/
def Obligations.PageCopiesEnd : Prop :=
  ∀ (s : State) (r : Nat) (p : Page), Sound s → s.page r = some p → p.share ≠ 0 → s.mb.jobs = [] → s.tmvWaiters r = [] →
    (r ∈ s.copying → s.dram.closed = false → p.st = 1 → p.evpend = false → s.hostBad (p.home * 4096) pageBytes = false → ∃ t : State, exec (.promotionComplete r) s = .next t ∧
      t.page r = some { p with st := 2, dirty := false } ∧
      ∀ i < pageBytes, t.dram.bytes.read (p.frame * pageBytes + i) = s.host.bytes.read (p.home * 4096 + i)) ∧
    (r ∈ s.copying → p.st = 1 → ∃ t : State, exec (.promotionError r) s = .next t ∧
      t.page r = some { p with st := 0, frame := 0, evpend := false } ∧ t.ev.next = s.ev.next + 1) ∧
    (r ∈ s.copying → s.dram.closed = false → p.st = 3 → p.prefetch = false → s.hostBad (p.home * 4096) pageBytes = false →
      ∃ t : State, exec (.evictionComplete r) s = .next t ∧
      t.page r = some { p with st := 0, frame := 0, dirty := false, evpend := false, forced := false, inflight := 0 } ∧
      ∀ i < pageBytes, Table.get [] s.dram.errs ((p.frame * pageBytes + i) / 128) = [] → t.host.bytes.read (p.home * 4096 + i) = s.dram.bytes.read (p.frame * pageBytes + i)) ∧
    (r ∈ s.copying → p.st = 3 → ∃ t : State, exec (.evictionError r) s = .next t ∧
      t.page r = some { p with st := 2, dirty := true, evpend := false, forced := false, prefetch := false } ∧
      t.ev.next = s.ev.next + 1) ∧
    (r ∉ s.copying → ∀ i ∈ [Instr.promotionComplete r, .promotionError r, .evictionComplete r, .evictionError r], exec i s = .next s) ∧
    (p.inflight ≠ 0 → ∃ t : State, exec (.lastWriteDone r) s = .next t ∧
      t.page r = some (if p.st = 2 ∧ p.evpend = true ∧ p.pin = 0 then
        (if p.dirty then { p with inflight := 0, st := 3, evpend := false, forced := true }
         else { p with inflight := 0, st := 0, evpend := false, forced := false, frame := 0 })
        else { p with inflight := 0 })) ∧
    (∀ (t d n : Nat), d ≤ max s.now t → ∀ s' : State,
      s' = { s with mb := { s.mb with jobs := [⟨n, .tierEvict, [(r + 1, none)], some d, [], [1]⟩] } } → ∃ w : State,
      exec (.forcedEvictionTimeout r t) s' = .next w ∧ w.page r = some { p with evpend := false, forced := false } ∧ w.mb.jobs = [])

/-- CARILLON_FORM of a descriptor that no check of Table 12.3 refuses records it as forming, sends FORM with its index, CID
and digest to member 0 and waits with its time limit. At member 0 a FORM notice that completes the set sends FORMED to every
member when all agree with its own CID and digest, else FORM_FAIL with the lowest differing index. FORMED for that CID makes
the device a member: NEXT_EPOCH is EPOCH_BASE, N - L is added to the beat number, the fault threshold is the policy value,
the lateness counters are zero, and the command completes OK with the digest. FORM_FAIL completes it REJECTED, the time
limit TIMEOUT, neither changing membership. CARILLON_LEAVE ends membership with a LEAVE notice to member 0, which logs it.
-/
def Obligations.CarillonFormsByExchange : Prop :=
  (∀ (s : State) (n : Fin 64) (t : Nat) (bs : List Byte) (dest : Torus) (r : CarRec), Given (s.at t) n 0x70 [] bs → s.torus = some dest →
    s.car.member = false → s.ep.st ≠ .running → carReserved bs (carLoose bs) = false → carRecOf bs = some r →
    (s.at t).carBad bs r dest (fun b => decide (s.ep.ranMax ≤ b)) = false → s.carRejected r = false → ∃ w : State,
    exec (.carillonForm n t) s = .next w ∧ w.car.member = false ∧ w.car.forming = some { r with digest := r.digestOf } ∧
    w.out = s.out ++ [.notice "FORM" 0 ([r.self, r.cid] ++ words64 r.digestOf)] ∧ w.ep = s.ep ∧ w.beat = s.beat ∧
    ∃ j ∈ w.mb.jobs, j.n = n.val ∧ j.kind = .form ∧ j.deadline = some ((s.at t).now + (s.box n.val).formLimit)) ∧
  (∀ (s : State) (m cid : Nat) (dg : List Byte) (r : CarRec), s.car.forming = some r → r.self = 0 →
    let of (i : Nat) := ((s.car.forms.filter (fun f => f.1 != m) ++ [(m, cid, dg)]).find? (fun f => f.1 == i)).map Prod.snd
    (∀ i < r.count, (of i).isSome = true) →
    ((∀ i < r.count, of i = some (r.cid, r.digest)) → ∃ w : State, exec (.formNotice m cid dg) s = .next w ∧
      w.out = s.out ++ (List.range r.count).map (fun i => .notice "FORMED" i [r.cid])) ∧
    (∀ k < r.count, of k ≠ some (r.cid, r.digest) → (∀ i < k, of i = some (r.cid, r.digest)) →
      ∃ w : State, exec (.formNotice m cid dg) s = .next w ∧
        w.out = s.out ++ (List.range r.count).map (fun i => .notice "FORM_FAIL" i [r.cid, k]))) ∧
  (∀ (s : State) (j : Job) (r : CarRec), s.formJob = some j → s.car.forming = some r → j.kind = .form → j.units = [] →
    (∃ w : State, exec (.formed r.cid) s = .next (w.reply j.n stOk 0 r.digest 1) ∧ w.car.member = true ∧ w.car.rec? = some r ∧
      w.car.forming = none ∧ w.ep.next = r.desc.getD 0 0 ∧ w.car.threshold = s.policy 0x0030 ∧ w.car.late = Late.init ∧
      w.car.haltedBy = [] ∧
      w.beat.num = (s.beat.num + (fld (r.desc.getD 4 0) 47 0 + 2 ^ 48 - fld (r.desc.getD 3 0) 47 0)) % 2 ^ 48 ∧
      w.kv = s.kv ∧ w.dram = s.dram) ∧
    (∀ m, ∃ w : State, exec (.formFail r.cid m) s = .next (w.reply j.n stRejected 0 [] 0) ∧ w.car.member = s.car.member ∧
      w.car.rec? = s.car.rec? ∧ w.car.forming = none) ∧
    (∀ (t d : Nat), j.deadline = some d → d ≤ max s.now t →
      ∃ w : State, exec (.formTimeout t) s = .next (w.reply j.n stTimeout 0 [] 0) ∧ w.car.member = s.car.member ∧ w.car.forming = none)) ∧
  (∀ (s : State) (n : Fin 64) (bs : List Byte), Given s n 0x72 [] bs → s.ep.st ≠ .running → s.car.member = true → bs.length = 0 →
    ∃ w : State, exec (.carillonLeave n) s = .next (w.reply n.val stOk 0 [] 0) ∧ w.car.member = false ∧ w.car.rec? = s.car.rec? ∧
      w.out = s.out ++ [.notice "LEAVE" 0 [s.selfIdx]]) ∧
  (∀ (s : State) (m : Nat), s.car.member = true → s.selfIdx = 0 →
    exec (.leaveNotice m) s = .next (s.logEvent 0 0 0x63 s.cid m))

/-- PLANE_SWITCH on the standby of a current mirrored pair, quiescent and with its carillon record, makes it ACTIVE and
valid, sends ROLE over PT and FORM to member 0, and sets NEXT_EPOCH to the twin's last known; the pair stays CURRENT when no
recorded knell names the twin as origin, and is STALE with cause SWITCH when one does. SHRINK of a quiescent member with a
descriptor that no check refuses begins the exchange with one unit per open sequence. A ROLE notice makes a mirrored ACTIVE
device STANDBY, ends its membership and is answered; on the device that sent one it is the answer. With no answer after 100
microseconds a CURRENT pair becomes STALE with cause SWITCH. -/
def Obligations.ReformCommandsBegin : Prop :=
  (∀ (s : State) (n : Fin 64) (t : Nat) (bs : List Byte) (r : CarRec), Given (s.at t) n 0x71 [bits 47 32 + 1] bs →
    bs.length = 8 → argW bs 0 = 0 → s.ep.st ≠ .running → s.ep.quiet = true → s.twin.st = 1 → s.twin.mode = 0 → s.twin.role = 2 →
    s.car.rec? = some r → ∃ w : State, exec (.planeSwitch n t) s = .next w ∧ w.twin.role = 1 ∧ w.twin.valid = true ∧
      w.ep.next = s.twin.nextEpoch ∧ w.ep.prep = s.twin.prepOf ∧ w.car.forming = some { r with digest := r.digestOf } ∧
      (s.twin.knell.any (fun k => k.2 == r.self) = false → w.twin.st = 1 ∧
        w.out = s.out ++ [.ptNotice "ROLE" [] [], .notice "FORM" 0 ([r.self, r.cid] ++ words64 r.digestOf)]) ∧
      (s.twin.knell.any (fun k => k.2 == r.self) = true → w.twin.st = 2 ∧ w.twin.cause = 6)) ∧
  (∀ (s : State) (n : Fin 64) (t : Nat) (bs : List Byte) (old new : CarRec) (dest : Torus),
    Given (s.at t) n 0x71 [bits 47 32 + 1] bs → bitAt (argW bs 0) 0 = true → s.ep.st ≠ .running → s.ep.quiet = true →
    s.car.rec? = some old → s.torus = some dest →
    let len := carPayloadLen (bs.drop 8)
    let runs := words64 ((bs.drop 8).drop len)
    carReserved (bs.drop 8) (carLoose (bs.drop 8)) = false → (s.at t).patternOther new = false →
    bs.length = 8 + len + 8 * fld (argW bs 0) 47 32 → (∀ w ∈ runs, fld w 63 32 = 0 ∧ fld w 31 16 ≠ 0 ∧ fld w 15 0 ∈ s.openSeqs) →
    distinct (runs.map (fun w => fld w 15 0)) = true → carRecOf ((bs.drop 8).take len) = some new →
    (s.at t).carBad (bs.drop 8) new dest (fun b => b == s.ep.next) = false → shrinkBad old new = false →
    ∃ w : State, exec (.shrink n t) s = .next w ∧ w.car.forming = some { new with digest := new.digestOf } ∧ w.car.rec? = some old ∧
      w.kv = s.kv ∧ w.out = s.out ++ [.notice "FORM" 0 ([new.self, new.cid] ++ words64 new.digestOf)] ∧
      ∃ j ∈ w.mb.jobs, j.n = n.val ∧ j.kind = .shrink ∧ j.units = s.openSeqs.map (fun q => (q + 1, none))) ∧
  (∀ s : State,
    (s.twin.roleSent = none → s.twin.st ≠ 0 → s.twin.mode = 0 → s.twin.role = 1 → ∃ w : State, exec .roleNotice s = .next w ∧
      w.twin.role = 2 ∧ w.twin.valid = false ∧ w.twin.nextEpoch = s.ep.next ∧ w.car.member = false ∧ w.car.rec? = s.car.rec? ∧
      w.out = s.out ++ [.ptNotice "ROLE" [] []]) ∧
    (∀ x, s.twin.roleSent = some x → exec .roleNotice s = .next { s with twin := { s.twin with roleSent := none } }) ∧
    (∀ x t, s.twin.roleSent = some x → x + 100000 ≤ max s.now t → s.twin.st = 1 → ∃ w : State, exec (.roleTimeout t) s = .next w ∧
      w.twin.st = 2 ∧ w.twin.cause = 6 ∧ w.twin.valid = true ∧ w.twin.role = s.twin.role ∧ w.twin.roleSent = none))

/-- LATENESS_READ of a member completes OK with the device's totals, which count the time that streams halted now have waited
so far, and with WHICH 1 at the lead with the last report. At the end of a window (LATE_WINDOW beats after its start, and not
before) a member sends its record to the lead, its window sums are zero, the ended window's length is kept and a LATE_WINDOW
that was set meanwhile is in force; totals stand. A window record at the lead that completes the set yields a report that
names the lowest member whose net lateness no other member's exceeds; one that does not complete it is kept. -/
def Obligations.LatenessIsReported : Prop :=
  (∀ (s : State) (n : Fin 64) (bs : List Byte), Given s n 0x73 [1] bs → bs.length = 8 → s.car.member = true →
    (argW bs 0 = 0 →
      exec (.latenessRead n) s = .next (s.settleHalts.reply n.val stOk 0 (bytes64 s.settleHalts.car.late.words) 0)) ∧
    (argW bs 0 = 1 → s.selfIdx = 0 → exec (.latenessRead n) s =
      .next (s.settleHalts.reply n.val stOk 0 (bytes64 ((s.car.report.map Report.words).getD [0, 0, 0])) 0))) ∧
  (∀ s : State,
    let waited := ((List.range 64).map (fun c => match (s.eng c 6).bind Run.halt with
      | some h => s.now - h.counted
      | none => 0)).sum
    s.settleHalts.car.late =
      { s.car.late with halt := s.car.late.halt + waited, whalt := s.car.late.whalt + waited }) ∧
  (∀ s : State, s.car.member = true →
    (s.beatNo - s.car.winFrom < s.policy 0x0040 → exec .latenessWindow s = .next s) ∧
    (s.policy 0x0040 ≤ s.beatNo - s.car.winFrom → ∃ w : State, exec .latenessWindow s = .next w ∧
      let l := s.settleHalts.car.late
      w.car.late = { l with wsuffer := 0, whalt := 0, wsrcs := [] } ∧ w.car.winFrom = s.beatNo ∧
      w.car.winLens = s.car.winLens ++ [(s.car.winFrom, s.policy 0x0040)] ∧ w.pol.late = [] ∧
      (∀ v, s.pol.late = [(0x0040, v)] → w.policy 0x0040 = v) ∧ (s.pol.late = [] → w.policy 0x0040 = s.policy 0x0040) ∧
      w.out = s.out ++ [.notice "WINDOW" 0 ([l.wsuffer % 2 ^ 64, l.whalt % 2 ^ 64, s.selfIdx, s.car.winFrom] ++
        (topSrcs l.wsrcs).flatMap (fun e => [e.1, e.2]))])) ∧
  (∀ (s : State) (r : WinRec), s.car.member = true → s.selfIdx = 0 → r.member < s.memberCount →
    let rs := s.car.windows ++ [r]
    ((∃ m < s.memberCount, ∀ x ∈ rs, x.member ≠ m) →
      exec (.windowRecord r) s = .next { s with car := { s.car with windows := rs } }) ∧
    ((∀ m < s.memberCount, ∃ x ∈ rs, x.member = m) → ∃ (w : State) (rep : Report), exec (.windowRecord r) s = .next w ∧
      w.car.report = some rep ∧ rep.slowest < s.memberCount ∧
      let got := (List.range s.memberCount).filterMap (fun m => rs.find? (fun x => x.member == m))
      rep.net = netOf got rep.slowest ∧ (∀ m < s.memberCount, netOf got m ≤ rep.net) ∧
      ∀ m < rep.slowest, netOf got m < rep.net))

/-- A HALT notice from a member is noted with the time of the first; the RESUME of the last halted member ends the pause,
which is kept with its start and end; others only leave the list. -/
def Obligations.HaltNoticesPauseMember : Prop :=
  ∀ (s : State) (m t : Nat), s.car.member = true → m < s.memberCount →
    exec (.haltNotice m t) s = .next { s with now := max s.now t, car := { s.car with
      haltedBy := NatSet.insert s.car.haltedBy m, waitStop := some (s.car.waitStop.getD (max s.now t)) } } ∧
    (NatSet.has s.car.haltedBy m = true → NatSet.remove s.car.haltedBy m = [] →
      exec (.resumeNotice m t) s = .next { s with now := max s.now t, car := { s.car with
        haltedBy := [], waitStop := none,
        pauses := s.car.pauses ++ [(s.car.waitStop.getD (max s.now t), max s.now t)] } }) ∧
    (NatSet.has s.car.haltedBy m = true → NatSet.remove s.car.haltedBy m ≠ [] →
      exec (.resumeNotice m t) s = .next { s with now := max s.now t, car := { s.car with
        haltedBy := NatSet.remove s.car.haltedBy m } })

/-- For every descriptor that CARILLON_FORM takes apart: T and S lie in 1 to 256, SW in 1 to 20,480, and the member count is
T x S x SW, at most 20,480. The member with tensor index t, stage index s and sequence index q has member index (q x S + s)
x T + t: that index is below the count and has these axes, and every index below the count is that of its axes. -/
def Obligations.MemberAxes : Prop :=
  ∀ (bs : List Byte) (r : CarRec), carRecOf bs = some r →
    1 ≤ r.tsize ∧ r.tsize ≤ 256 ∧ 1 ≤ r.ssize ∧ r.ssize ≤ 256 ∧ 1 ≤ r.sw ∧ r.sw ≤ 20480 ∧
    r.count = r.tsize * r.ssize * r.sw ∧ r.count ≤ 20480 ∧
    (∀ t st q, t < r.tsize → st < r.ssize → q < r.sw →
      (q * r.ssize + st) * r.tsize + t < r.count ∧ r.axes ((q * r.ssize + st) * r.tsize + t) = (t, st, q)) ∧
    (∀ m < r.count, (r.axes m).1 < r.tsize ∧ (r.axes m).2.1 < r.ssize ∧ (r.axes m).2.2 < r.sw ∧
      m = ((r.axes m).2.2 * r.ssize + (r.axes m).2.1) * r.tsize + (r.axes m).1)

/-- TWIN_PAIR of two unpaired, idle, alike sides over a trained PT makes this side ACTIVE and valid, STALE with cause PAIRED
and with the image's mode, recorded in the journal; a resync begins when AUTO_RESYNC is 1. TWIN_RESYNC of a STALE pair
begins at the journalled unit where R369 allows, else at unit 0 with an event. TWIN_UNPAIR with nothing running removes the
pairing and its records. TWIN_MODE of a CURRENT idle pair to SHADOW (both members with equal digests) makes both ACTIVE; to
MIRROR leaves the side that KEEP names ACTIVE and the other STANDBY and no member. Each command in another state completes
with NOT_IN_STATE. -/
def Obligations.TwinCommandsChangePair : Prop :=
  ∀ (s : State) (n : Fin 64) (bs : List Byte),
    (∀ p : Peer, Given s n 0x80 [] bs → bs.length = 0 → (s.port .pt).trained = true → s.twin.st = 0 → p.paired = false →
      s.ep.st ≠ .running → p.stepping = false → s.car.member = false → p.member = false → p.sameSilicon = true →
      p.sameProfile = true → p.sameDigests = true → p.sameRouting = true → p.journals = true →
      exec (.twinPair n (some p)) s = .next (if s.field 0x0131 = 1 then (s.pair.twinReply n.val stOk 3).beginResync 0
        else s.pair.twinReply n.val stOk 3) ∧
      s.pair.twin = { Twin.init with st := 2, mode := s.field 0x0130, role := 1, valid := true, cause := 1, nextEpoch := s.ep.next } ∧
      JRec.pairing (s.img.rseq + 1) 1 (s.field 0x0130) true ∈ s.pair.img.journal) ∧
    (∀ tm kept, Given s n 0x81 [] bs → bs.length = 0 → s.twin.st = 2 → (s.port .pt).trained = true →
      let w := s.await n.val .resync [] [] []
      (∀ u, w.resumeUnit tm kept = some u → exec (.twinResync n tm kept) s = .next (w.beginResync u)) ∧
      (w.resumeUnit tm kept = none → exec (.twinResync n tm kept) s = .next ((w.logEvent 0 0 0x83 0 s.twin.word).beginResync 0))) ∧
    (∀ tm kept, Given s n 0x81 [] bs → s.twin.st ≠ 2 →
      exec (.twinResync n tm kept) s = .next (s.reply n.val stNotInState 0 (bytes64 [s.twin.word]) 0)) ∧
    (∀ busy, Given s n 0x82 [] bs → bs.length = 0 → s.ep.st ≠ .running → s.twin.st ≠ 3 → s.car.member = false →
      (busy = false ∨ (s.port .pt).trained = false) →
      exec (.twinUnpair n busy) s = .next (s.unpair.reply n.val stOk 0 (bytes64 [0]) 0) ∧ s.unpair.twin = Twin.init ∧
      ∀ r ∈ s.unpair.img.journal, (∀ a b c d, r ≠ JRec.pairing a b c d) ∧ ∀ a b c d e f, r ≠ JRec.resync a b c d e f) ∧
    (∀ idle eq, Given s n 0x83 [3] bs → bs.length = 8 → s.twin.st = 1 → s.ep.st = .idle → idle = true →
      (argW bs 0 % 2 = 1 → s.twin.mode = 0 → s.car.member = true → eq = true → ∃ w : State,
        exec (.twinMode n idle eq) s = .next (w.twinReply n.val stOk 0) ∧ w.twin.mode = 1 ∧ w.twin.role = 1 ∧ w.twin.st = 1) ∧
      (argW bs 0 = 0 → s.twin.mode = 1 → ∃ w : State, exec (.twinMode n idle eq) s = .next (w.twinReply n.val stOk 0) ∧
        w.twin.mode = 0 ∧ w.twin.role = 1 ∧ w.twin.st = 1 ∧ w.car.member = s.car.member) ∧
      (argW bs 0 = 2 → s.twin.mode = 1 → ∃ w : State, exec (.twinMode n idle eq) s = .next (w.twinReply n.val stOk 0) ∧
        w.twin.mode = 0 ∧ w.twin.role = 2 ∧ w.twin.st = 1 ∧ w.car.member = false))

/-- While RESYNCING and not paused, at the current unit u: a failure makes the pair STALE with cause RESYNC_FAIL. On the
target a completed unit is journalled with mark u + 1, which is then its WMARK; after unit 191 the pair is CURRENT with WMARK 192. On the
source the unit's bytes go over PT, its record is written, and the copy goes on at the next unit in use: the mark never
falls, every unit skipped holds nothing in use, and after the last unit the pair is CURRENT. -/
def Obligations.ResyncUnitsAdvance : Prop :=
  ∀ (s : State) (u from_ : Nat), s.twin.st = 3 → s.twin.paused = false → s.twin.resync = some (u, from_) →
    (∃ w : State, exec (.resyncUnit u false) s = .next w ∧ w.twin.st = 2 ∧ w.twin.cause = 8 ∧ w.twin.valid = s.twin.valid ∧
      w.twin.resync = none) ∧
    (s.twin.valid = false → u < 191 → ∃ w : State, exec (.resyncUnit u true) s = .next w ∧ w.twin.st = 3 ∧ w.twin.wmark = u + 1 ∧
      (w.twin.resync.map Prod.fst) = some (u + 1) ∧
      JRec.resync (s.img.rseq + 1) false (u + 1) s.ep.lce s.genDigest ((List.range 32).map Config.twinIdentity) ∈ w.img.journal) ∧
    (s.twin.valid = false → u = 191 → ∃ w : State, exec (.resyncUnit u true) s = .next w ∧ w.twin.st = 1 ∧ w.twin.wmark = 192) ∧
    (s.twin.valid = true → u < 192 → ∃ w : State, exec (.resyncUnit u true) s = .next w ∧
      .ptNotice "RESYNC_UNIT" (u :: s.unitArgs u) [] ∈ w.out ∧
      JRec.resync (s.img.rseq + 1) true (u + 1) s.ep.lce s.genDigest ((List.range 32).map Config.twinIdentity) ∈ w.img.journal ∧
      ((w.twin.st = 1 ∧ w.twin.wmark = 192 ∧ ∀ v, u < v → v < 192 → s.unitUsed v = false) ∨
       (w.twin.st = 3 ∧ u < w.twin.wmark ∧ w.twin.wmark < 192 ∧ s.unitUsed w.twin.wmark = true ∧
        w.twin.resync.map Prod.fst = some w.twin.wmark ∧ ∀ v, u < v → v < w.twin.wmark → s.unitUsed v = false)))

/-- A mirror write within DRAM at the standby of a CURRENT mirrored pair, or the target of a resync, stores its bytes at the
same address, and waits while DRAM is closed; at any other device it changes nothing. A mirror write unacknowledged for 1
ms, with no PREPARE pending, makes the pair STALE with cause MIRROR_FAIL. While DRAM is open a refetch of clean DRAM bytes
(at most 65,536, in channels that are not degraded) is answered at a CURRENT pair with the bytes, and refused by an empty
answer otherwise. The answer to a refetch goes to the halted streams that wait for that address of that space; a failed one
raises the knell with cause NO_REFETCH for the first of them. CP state changes are applied by a side that takes mirror
writes. A HOLD notice pauses the mirroring of a CURRENT or RESYNCING pair, and the pause ends when PT is trained again. -/
def Obligations.TwinTrafficActs : Prop :=
  ∀ s : State,
    (∀ (a : Nat) (data : List Byte) (p : List Nat), a + data.length ≤ dramBytes →
      (s.twin.takes = true → s.dram.closed = false → ∃ w : State, exec (.mirrorWrite a data p) s = .next w ∧
        (∀ x, w.dram.bytes.read x =
          if a ≤ x ∧ x < a + data.length then data.getD (x - a) 0 else s.dram.bytes.read x) ∧ w.kv = s.kv ∧ w.cores = s.cores) ∧
      (s.twin.takes = false ∨ s.dram.closed = true → exec (.mirrorWrite a data p) s = .next s)) ∧
    (∀ t, (s.twin.st = 1 ∨ s.twin.st = 3) → s.ep.ackDue = false → (∃ e ∈ s.twin.mirror, 1000000 + e.2 ≤ max s.now t) →
      ∃ w : State, exec (.mirrorFail t) s = .next w ∧ w.twin.st = 2 ∧ w.twin.cause = 3 ∧ w.twin.mirror = []) ∧
    (s.dram.closed = false →
      (∀ a n, n ≤ 65536 → a + n ≤ dramBytes → s.twin.st = 1 →
        (∀ b ∈ burstsOf a n, Table.get [] s.dram.errs b = [] ∧ NatSet.has s.dram.poison b = false ∧ s.erased b = none) →
        exec (.refetchRequest 3 a n) s =
          .next { s with out := s.out ++ [.ptNotice "REFETCH_REPLY" [3, a, 1] (s.dram.bytes.readN a n)] }) ∧
      ∀ sp a n, s.twin.st ≠ 1 →
        exec (.refetchRequest sp a n) s = .next { s with out := s.out ++ [.ptNotice "REFETCH_REPLY" [sp, a, 0] []] }) ∧
    (∀ sp a c cs, s.refetching sp a = c :: cs → ∃ f, exec (.refetchReply ⟨sp, a⟩ none) s = .next (s.raiseKnell 0x02 f 1 c)) ∧
    (∀ sp a data, ∃ w : State, exec (.refetchReply ⟨sp, a⟩ (some data)) s = .next w ∧
      ∀ c ∈ s.refetching sp a, ∀ r, s.eng c 6 = some r →
        w.eng c 6 = some { r with patch := data.mapIdx (fun i b => (a + i, b)) }) ∧
    (s.twin.takes = true →
      (∀ q c p m o, exec (.cpStateChange (.lens q c p m o)) s = .next (s.setLens q ⟨c, p, o, m⟩)) ∧
      (∀ q ws, exec (.cpStateChange (.header q ws)) s = .next (s.setHdr q ws)) ∧
      (∀ e, exec (.cpStateChange (.retired e)) s = .next { s with
        twin := { s.twin with nextEpoch := e + 1 }, ep := { s.ep with next := max s.ep.next (e + 1) } }) ∧
      (∀ k v, exec (.cpStateChange (.policySet k v)) s = .next (s.queuePolicy k v)) ∧
      (∀ img, exec (.cpStateChange (.patternLoad img)) s = .next { s with pat := ⟨.loaded, img, shake256 32 img⟩ })) ∧
    ((s.twin.st = 1 ∨ s.twin.st = 3) → exec .holdNotice s = .next { s with twin := { s.twin with paused := true } }) ∧
    ((s.port .pt).trained = true → s.twin.paused = true →
      exec .ptPauseEnd s = .next { s with twin := { s.twin with paused := false, since := s.now } })

/-- When every participating core has completed its list and no flit of the epoch waits in the router, the step ends: the
state becomes DONE and STEP_RUN completes with the OR of the flag words, POISONED when the step is poisoned and OK when not.
With no PREPARE held, that is all. An unpaired device that holds a PREPARE votes at once: OK, holding the counts, unless the
step is poisoned. One that holds an ABORT that came while the step ran (log 108) applies it: IDLE, every COMMITTED standing.
While the step has not ended only the clock moves. -/
def Obligations.StepEndCompletes : Prop :=
  ∀ (s : State) (t : Nat) (j : Job), ((s.at t).stepEnded = false → exec (.stepDone t) s = .next (s.at t)) ∧
    ((s.at t).stepEnded = true → s.mb.jobs.filter (fun j => j.kind == .step) = [j] →
      let d : State := { s.at t with ep := { s.ep with st := .done } }
      let f := d.allFlags % 65536
      let r := d.answer j.n (if s.ep.poison then stPoisoned else stOk) 0 (bytes64 [f]) [f]
      (s.ep.abortDue = none → s.ep.voteDue = none → exec (.stepDone t) s = .next r) ∧
      (s.ep.abortDue = some s.ep.next → ∃ w : State, exec (.stepDone t) s = .next w ∧ w.ep.st = .idle ∧ w.ep.abortDue = none ∧
        w.ep.voteDue = none ∧ w.ep.next = s.ep.next ∧ w.out.getLast? = some (.notice "DECISION_ACK" 0 [s.selfIdx, s.ep.next]) ∧
        ∀ q, (w.lens q).committed = (s.lens q).committed ∧ (w.lens q).prov = 0) ∧
      (∀ e cs, s.ep.abortDue = none → s.ep.voteDue = some (e, cs) → s.twin.st = 0 → ∃ w : State, exec (.stepDone t) s = .next w ∧
        w.ep.st = (if s.ep.poison then .done else .prepared) ∧ w.ep.prep = (if s.ep.poison then none else some (e, cs)) ∧
        w.ep.voteDue = none ∧ w.out = r.out ++ [.notice "VOTE" 0 [r.selfIdx, e, b2n (!s.ep.poison)]] ∧ w.kv = s.kv))

/-- A PREPARE notice for the current epoch at a device in DONE: unpaired, it votes OK, or not for a poisoned step; the
ACTIVE side of a mirrored pair forwards it and waits, and the PREPARE_ACK of that epoch brings the vote; with a shadow twin
whose digest came and equals its own it votes, and with another digest both sides raise the knell; the digest alone, without
the lead's PREPARE, brings no vote. At the standby it is
recorded and acknowledged. A PREPARE for another epoch, or in IDLE or PREPARED, changes nothing but the clock. -/
def Obligations.VotesFollowPrepare : Prop :=
  ∀ (s : State) (e : Nat) (cs : List (Nat × Nat)) (t : Nat),
    (s.twin.standby = false → (e ≠ s.ep.next ∨ s.ep.st = .idle ∨ s.ep.st = .prepared) → ∀ dg,
      exec (.prepareNotice e cs dg t) s = .next (s.at t)) ∧
    (s.twin.standby = true → ∀ dg, exec (.prepareNotice e cs dg t) s = .next
      { s.at t with twin := { s.twin with prepOf := some (e, cs) }, out := s.out ++ [.ptNotice "PREPARE_ACK" [e] []] }) ∧
    (s.twin.st = 0 → e = s.ep.next → s.ep.st = .done → ∃ w : State, exec (.prepareNotice e cs none t) s = .next w ∧
      w.out = s.out ++ [.notice "VOTE" 0 [s.selfIdx, e, b2n (!s.ep.poison)]] ∧ w.kv = s.kv ∧ w.ep.voteDue = none ∧
      w.ep.st = (if s.ep.poison then .done else .prepared) ∧ w.ep.prep = (if s.ep.poison then none else some (e, cs))) ∧
    (s.twin.mirroring = true → s.twin.paused = false → e = s.ep.next → s.ep.st = .done → s.ep.ackDue = false →
      ∃ w : State, exec (.prepareNotice e cs none t) s = .next w ∧ w.ep.st = .done ∧ w.ep.ackDue = true ∧ w.ep.voteDue = some (e, cs) ∧
        w.out = s.out ++ [.ptNotice "PREPARE" (e :: cs.flatMap (fun c => [c.1, c.2])) []]) ∧
    (s.ep.voteDue = some (e, cs) → s.ep.ackDue = true → s.ep.st = .done → ∃ w : State, exec (.prepareAck e) s = .next w ∧
      w.out = s.out ++ [.notice "VOTE" 0 [s.selfIdx, e, b2n (!s.ep.poison)]] ∧ w.ep.ackDue = false ∧
      w.ep.st = (if s.ep.poison then .done else .prepared)) ∧
    (s.twin.shadow = true → e = s.ep.next → s.ep.st = .done → s.ep.voteDue = some (e, cs) →
      (∃ w : State, exec (.prepareNotice e cs (some (s.at t).epochDigest) t) s = .next w ∧
        w.out = s.out ++ [.notice "VOTE" 0 [s.selfIdx, e, b2n (!s.ep.poison)]]) ∧
      (∀ d, d ≠ (s.at t).epochDigest → s.ep.knell = none → ∃ w : State, exec (.prepareNotice e cs (some d) t) s = .next w ∧
        w.ep.st = .idle ∧ w.ep.selfCheck = true ∧ (w.ep.knell.map (fun k => k.1.cause)) = some 0x0B)) ∧
    (s.twin.shadow = true → e = s.ep.next → (s.ep.st = .running ∨ s.ep.st = .done) → s.ep.voteDue = none → ∀ d,
      exec (.prepareNotice e cs (some d) t) s = .next { s.at t with ep := { s.ep with peerDigest := some d } })

/-- An OK vote for the commit's epoch is kept at the lead; the last of all OK votes sends DECISION COMMIT to every member. The
first POISONED vote sends ABORT and STEP_COMMIT completes POISONED. The last acknowledgement of a COMMIT completes STEP_COMMIT with OK.
With votes missing at the commit limit the lead decides ABORT, completes STEP_COMMIT with TIMEOUT and raises the knell for
cause VOTE_LOST. A prepared member without a decision at the limit raises it for DECISION_LOST. -/
def Obligations.LeadDecidesByVotes : Prop :=
  ∀ (s : State), (∀ j, s.commitJob = some j → s.isLead = true →
    (∀ (m e : Nat) (ok : Bool), s.lead.decided = none → j.args.getD 0 0 = e → m < s.memberCount →
      (∀ v ∈ s.lead.votes, v.1 ≠ m) →
      let v : State := { s with lead := { s.lead with votes := s.lead.votes ++ [(m, ok)] } }
      (ok = false → exec (.vote m e ok) s = .next ((v.sendDecision e false).endCommit stPoisoned 0)) ∧
      (ok = true → s.lead.votes.length + 1 < s.memberCount → exec (.vote m e ok) s = .next v) ∧
      (ok = true → (∀ x ∈ s.lead.votes, x.2 = true) → s.memberCount ≤ s.lead.votes.length + 1 → ∃ w : State,
        exec (.vote m e ok) s = .next w ∧ w.lead.decided = some (e, true) ∧ w.mb = s.mb ∧
        w.out = s.out ++ s.members.map (fun i => .notice "DECISION" i [e, 1]))) ∧
    (∀ (m e : Nat), s.lead.decided = some (e, true) → m < s.memberCount → m ∉ s.lead.acks →
      let v : State := { s with lead := { s.lead with acks := s.lead.acks ++ [m] } }
      (s.lead.acks.length + 1 < s.memberCount → exec (.decisionAck m e) s = .next v) ∧
      (s.memberCount ≤ s.lead.acks.length + 1 → exec (.decisionAck m e) s = .next (v.endCommit stOk 0))) ∧
    (∀ t, s.lead.decided = none → (s.at t).commitLimit ≤ max s.now t - s.lead.commitAt → exec (.voteLost t) s =
      .next ((({ s.at t with lead := { s.lead with decided := some (j.args.getD 0 0, false) } }).endCommit stTimeout 0).raiseKnell
        0x08 0 0 0))) ∧
    (∀ t cs, s.ep.st = .prepared → s.ep.prep = some (s.ep.next, cs) → (s.at t).commitLimit ≤ max s.now t - s.ep.prepAt →
      exec (.decisionLost t) s = .next ((s.at t).raiseKnell 0x09 0 0 0))

/-- A COMMIT decision for the prepared epoch e at a member makes it IDLE with last committed epoch e and NEXT_EPOCH at least
e + 1, adds each count to COMMITTED of its sequence and to no other, leaves every PROV 0, clears the prepared counts and
ends its outputs with a DECISION_ACK to the lead. ABORT for it leaves COMMITTED and NEXT_EPOCH as they are. MAXLEN and
headers are unchanged by both. An ABORT that finds the step of its epoch running is held until that is done (log 108). -/
def Obligations.DecisionsChangeLengths : Prop :=
  (∀ s : State, s.ep.st = .running → s.twin.standby = false → s.reformJob = none →
    exec (.decision s.ep.next false) s = .next { s with ep := { s.ep with abortDue := some s.ep.next } }) ∧
  ∀ (s : State) (e : Nat) (cs : List (Nat × Nat)), s.ep.st = .prepared → s.ep.prep = some (e, cs) → s.twin.standby = false →
    s.reformJob = none →
    (distinct (cs.map Prod.fst) = true → ∃ w : State, exec (.decision e true) s = .next w ∧ w.ep.st = .idle ∧ w.ep.lce = e ∧
      w.ep.next = max s.ep.next (e + 1) ∧ w.ep.prep = none ∧ w.kv.hdrs = s.kv.hdrs ∧
      w.out.getLast? = some (.notice "DECISION_ACK" 0 [s.selfIdx, e]) ∧
      (∀ q, (w.lens q).prov = 0 ∧ (w.lens q).maxlen = (s.lens q).maxlen ∧ (w.lens q).isOpen = (s.lens q).isOpen) ∧
      (∀ c ∈ cs, (w.lens c.1).committed = (s.lens c.1).committed + c.2) ∧
      (∀ q, (∀ c ∈ cs, c.1 ≠ q) → (w.lens q).committed = (s.lens q).committed)) ∧
    (∃ w : State, exec (.decision e false) s = .next w ∧ w.ep.st = .idle ∧ w.ep.lce = s.ep.lce ∧ w.ep.next = s.ep.next ∧
      w.ep.prep = none ∧ w.kv.hdrs = s.kv.hdrs ∧ w.out.getLast? = some (.notice "DECISION_ACK" 0 [s.selfIdx, e]) ∧
      (∀ q, (w.lens q).prov = 0 ∧ (w.lens q).committed = (s.lens q).committed ∧ (w.lens q).maxlen = (s.lens q).maxlen))

/-- A first knell notice for the current epoch, by a torus port, at a member that runs the step or is done: afterwards the
state is IDLE and not quiescent, the knell and its time are held, no core has an op in flight or queued, no plan instance
lives, every PROV is 0, COMMITTED and NEXT_EPOCH stand, and one snare more has been written (four are kept). A prepared
device stays PREPARED with its counts. With the device in IDLE or no member, or for another epoch, only the discard counter
(and the clock) changes; a standby in MIRROR mode records a notice by PT. -/
def Obligations.KnellStopsStep : Prop :=
  ∀ (s : State) (p : Port) (k : KnellMsg) (t : Nat),
    (p ≠ .pt → s.car.member = true → s.ep.st ≠ .idle → k.epoch = s.ep.next → s.ep.knell = none →
      ∃ w : State, exec (.knellNotice p k t) s = .next w ∧
      w.ep.st = (if s.ep.st = .prepared then .prepared else .idle) ∧ w.ep.quiet = false ∧ w.ep.knell = some (k, max s.now t) ∧
      w.ep.next = s.ep.next ∧ w.ep.lce = s.ep.lce ∧ w.ep.prep = s.ep.prep ∧ w.rt.insts = [] ∧
      (∀ c < 64, (w.core c).engs = [] ∧ (w.core c).queues = [] ∧ (w.core c).csq = .idle) ∧
      w.ev.snareNo = s.ev.snareNo + 1 ∧ (w.ev.snares.getLast?).map Prod.fst = some s.ev.snareNo ∧
      w.ev.snares.length ≤ 4 ∧
      (∀ q, (w.lens q).committed = (s.lens q).committed) ∧
      (s.ep.st ≠ .prepared → ∀ q, (w.lens q).prov = 0)) ∧
    (p ≠ .pt → (s.car.member = false ∨ s.ep.st = .idle ∨ k.epoch ≠ s.ep.next) →
      (∀ x, s.ep.knell = some x → x.1.epoch ≠ k.epoch) →
      exec (.knellNotice p k t) s = .next ((s.at t).count 0 13 1)) ∧
    (s.twin.mirrorStandby = true → exec (.knellNotice .pt k t) s = .next
      { s.at t with twin := { s.twin with knell := some (k.epoch, k.origin) } })

/-- After a knell a device whose router holds no flit of the epoch sends QUIET once to the lead with its origin and absorb
counts, and again only when the latter changes. At the lead a report that leaves the set incomplete is kept; the one that
completes it, with equal sums within 500 microseconds and no member prepared, sends QUIESCED to every member. QUIESCED of
the knell's epoch makes the device quiescent and clears the knell and the counts; 1 ms after its own notice without it the
epoch is retired as well: NEXT_EPOCH is one more. A passed self-check clears its flag; a failed one makes a paired device
STALE with cause SELFCHECK and its side not valid. -/
def Obligations.QuiescenceEndsEpoch : Prop :=
  ∀ (s : State),
    (∀ k t0, s.ep.knell = some (k, t0) → s.ep.quiet = false → s.routerBusy = false → s.ep.quietSent ≠ some s.ep.absorbed →
      ∃ w : State, exec .quietSend s = .next w ∧ w.ep.quietSent = some s.ep.absorbed ∧ w.out = s.out ++ [.notice "QUIET" 0
        ([s.selfIdx, k.epoch, s.ep.orig, s.ep.absorbed, s.ep.lce] ++ (s.ep.prep.map Prod.fst).toList)]) ∧
    (∀ k t0, s.ep.knell = some (k, t0) → (s.ep.quiet = true ∨ s.ep.quietSent = some s.ep.absorbed) →
      exec .quietSend s = .next s) ∧
    (∀ (q : Quiet) (t : Nat) k t0, s.ep.knell = some (k, t0) → s.ep.quiet = false → s.isLead = true → k.epoch = q.epoch →
      q.member < s.memberCount →
      let qs := s.lead.quiets.filter (fun x => x.member != q.member) ++ [q]
      (qs.length < s.memberCount → exec (.quietNotice q t) s = .next { s.at t with lead := { s.lead with quiets := qs } }) ∧
      (qs.length = s.memberCount → (qs.map Quiet.orig).sum = (qs.map Quiet.absorbed).sum → max s.now t - t0 ≤ 500000 →
        (∀ x ∈ qs, x.prepared = none) → exec (.quietNotice q t) s =
          .next (({ s.at t with lead := { s.lead with quiets := [] } }).noticeAll "QUIESCED" [k.epoch]))) ∧
    (∀ k t0, s.ep.knell = some (k, t0) → s.ep.quiet = false →
      (∃ w : State, exec (.quiesced k.epoch) s = .next w ∧ w.ep.quiet = true ∧ w.ep.knell = none ∧ w.ep.orig = 0 ∧ w.ep.absorbed = 0 ∧
        w.ep.next = s.ep.next ∧ w.kv = s.kv ∧ w.lead.quiets = []) ∧
      (∀ t, t0 + 1000000 ≤ max s.now t → ∃ w : State, exec (.quiesceTimeout t) s = .next w ∧ w.ep.quiet = true ∧ w.ep.knell = none ∧
        w.ep.next = k.epoch + 1 ∧ w.kv = s.kv)) ∧
    (s.ep.selfCheck = true → s.ep.quiet = true →
      exec (.selfcheck true) s = .next { s with ep := { s.ep with selfCheck := false } } ∧
      (s.twin.st = 1 → ∃ w : State, exec (.selfcheck false) s = .next w ∧ w.ep.selfCheck = false ∧ w.twin.st = 2 ∧ w.twin.cause = 7 ∧
        w.twin.valid = false))

/-- Given as their rule wants them: SELFTEST of KIND 0 with no step running completes with one status per unit of TARGETS
and CORES, that unit's outcome; while a step runs it completes DEFERRED with the beat of its long window, and its task is
kept. KIND 1 with no step running leaves every core tested stopped with its clock on, and every other core, DRAM and every
sequence as they were; with a core whose clock is off for more than 1 ms it waits as a job and leaves that core as it was.
CALIBRATE with no step running completes with one status per unit: that of the stack where its class was asked for, and of
a port whether it trained in its first three attempts; else OK. G1's TEST and TRIM do the same. -/
def Obligations.TestsReportUnits : Prop :=
  ∀ (s : State) (n : Fin 64) (bs : List Byte) (fails : List Nat) (found : TrimFinds), lanesOk found.lanes = true →
    (Given s n 0x90 [1, bits 31 0, allBits] bs → bs.length = 24 →
      let us := testUnits (argW bs 1) (argW bs 2)
      (argW bs 0 = 0 → s.running = false →
        exec (.selftest n fails) s = .next (s.replyUnits n.val (us.map (testStatus fails)) [])) ∧
      (argW bs 0 = 0 → s.running = true → ∃ k, us.length ≤ k ∧
        exec (.selftest n fails) s = .next (s.deferTask n.val 0x90 (splitStatus (us.map (testStatus fails))) k)) ∧
      (argW bs 0 = 1 → bitAt (argW bs 1) 31 = false → s.running = false →
        (∀ c < 64, (argW bs 2).testBit c = true → s.coldCore c = false) → ∃ w : State,
        exec (.selftest n fails) s = .next (w.replyUnits n.val (us.map (testStatus fails)) []) ∧ w.dram = s.dram ∧ w.kv = s.kv ∧
        ∀ c < 64, ((argW bs 2).testBit c = false → w.core c = s.core c) ∧ ((argW bs 2).testBit c = true →
          (w.core c).engs = [] ∧ (w.core c).queues = [] ∧ (w.core c).csq = .idle ∧ (w.core c).gated = false)) ∧
      (argW bs 0 = 1 → bitAt (argW bs 1) 31 = false → s.running = false →
        (∃ c < 64, (argW bs 2).testBit c = true ∧ s.coldCore c = true) → ∃ w : State,
        exec (.selftest n fails) s = .next w ∧ (∃ j ∈ w.mb.jobs, j.n = n.val ∧ j.kind = .selftest) ∧
        ∀ c < 64, s.coldCore c = true → w.core c = s.core c)) ∧
    (GivenG1 s n 0x40 bs → bs.length = 4 → s.running = false →
      exec (.test n fails) s = .next (s.replyUnits n.val ((testUnits (argG1 bs 0) 0).map (testStatus fails)) [])) ∧
    (Given s n 0x91 [3, bits 30 0] bs → bs.length = 16 → exec (.calibrate n fails found) s =
      .next (s.calibrate n.val (bitAt (argW bs 0) 0) (bitAt (argW bs 0) 1) (argW bs 1) fails found)) ∧
    (GivenG1 s n 0x41 bs → bs.length = 8 → exec (.trim n fails found) s =
      .next (s.calibrate n.val (bitAt (argG1 bs 0) 0) (bitAt (argG1 bs 0) 1) (g1F bs 1 30) fails found)) ∧
    (∀ op status k, let w := s.deferTask n.val op status k
      w.beat.tasks = s.beat.tasks ++ [⟨op, status, s.nextLong, k⟩] ∧
      ∃ v : State, w = v.answer n.val stDeferred 0 (bytes64 [s.nextLong % 2 ^ 48]) [s.nextLong % 2 ^ 32]) ∧
    ∀ (dram ports : Bool) (targets : Nat),
      let us := setBits 31 targets
      (s.running = true →
        s.calibrate n.val dram ports targets fails found = s.deferTask n.val 0x91 (splitStatus (us.map (testStatus fails))) 1) ∧
      (s.running = false → ∃ w : State, s.calibrate n.val dram ports targets fails found = w.replyUnits n.val (us.map (fun u =>
          if u < 24 then (if dram then testStatus fails u else stOk)
          else if ports then (if (w.port (Port.ofIdx (u - 24))).trained then stOk else stRejected) else stOk)) [] ∧
        w.kv = s.kv ∧ w.cores = s.cores ∧
        ∀ u ∈ us, 24 ≤ u → ports = true → s.portEnabled (Port.ofIdx (u - 24)) = true →
          let tries := (attemptsOf found.ports (Port.ofIdx (u - 24))).take 3
          (∀ pre rest, tries = pre ++ .full :: rest → (∀ x ∈ pre, x ∈ [PortTrain.miswired, .laneMap, .failed]) →
            (w.port (Port.ofIdx (u - 24))).st = .full) ∧
          (∀ pre rest up lane, tries = pre ++ .degraded up lane :: rest → (∀ x ∈ pre, x ∈ [PortTrain.miswired, .laneMap, .failed]) →
            (w.port (Port.ofIdx (u - 24))).st = .degraded up) ∧
          ((∀ x ∈ tries, x ∈ [PortTrain.miswired, .laneMap, .failed]) → (w.port (Port.ofIdx (u - 24))).st = .down))

/-- POLICY_SET of a listed key with an allowed value completes OK; the value in force changes at the next beat and not
before (the routing word too, outside a carillon). POLICY_GET returns the value in force (of the
threshold: the last formation's; of the commit limit: the epoch's) and the image's. BEAT_SYNC with L
within the last 65,536 beats adds N - L to the beat number modulo 2^48; any other L is BAD_ARG; while a step runs it
completes with NOT_IN_STATE and no effect. HOLD_ENTER in READY enters hold with cause HOST and counts it. HOLD_EXIT in a
hold of that cause with the supplies good starts the exit sequence 10 ms after they became so. -/
def Obligations.PolicyBeatAndHoldCommands : Prop :=
  (∀ (s : State) (n : Fin 64) (bs : List Byte),
    (Given s n 0xA0 [bits 15 0, allBits] bs → bs.length = 16 → policyKey (argW bs 0) = true →
      (argW bs 0 ≠ 1 → fieldOk (argW bs 0) (argW bs 1) = true →
        exec (.policySet n) s = .next (((s.tellTwin "POLICY_SET" [argW bs 0, argW bs 1] []).queuePolicy (argW bs 0)
          (argW bs 1)).okWords n.val [])) ∧
      (argW bs 0 = 1 → s.car.member = false → s.routingOk (argW bs 1) = true →
        exec (.policySet n) s = .next (((s.tellTwin "POLICY_SET" [1, argW bs 1] []).queuePolicy 1 (argW bs 1)).okWords n.val []))) ∧
    (Given s n 0xA1 [bits 15 0] bs → bs.length = 8 → policyKey (argW bs 0) = true →
      (argW bs 0 ≠ 1 → exec (.policyGet n) s = .next (s.okWords n.val [s.inForce (argW bs 0), s.field (argW bs 0)])) ∧
      (argW bs 0 ≠ 0x0030 → (s.ep.st = .idle ∨ s.ep.stepPolicy = []) → s.inForce (argW bs 0) = s.policy (argW bs 0)) ∧
      (argW bs 0 = 0x0030 → s.car.member = true → s.inForce 0x0030 = s.car.threshold) ∧
      (argW bs 0 = 1 → exec (.policyGet n) s = .next (s.okWords n.val [s.pol.routing.getD 0, 0]))) ∧
    (Given s n 0xA2 [bits 47 0, bits 47 0] bs →
      (s.running = true → exec (.beatSync n) s = .next (s.fail n.val stNotInState)) ∧
      (s.running = false → bs.length = 16 → argW bs 0 ≤ s.beatNo → s.beatNo < argW bs 0 + 65536 → ∃ w : State,
        exec (.beatSync n) s = .next (w.okWords n.val []) ∧ w = { s with beat := { s.beat with num := w.beat.num } } ∧
        w.beatNo = (s.beat.num + argW bs 1 + 2 ^ 48 - argW bs 0) % 2 ^ 48) ∧
      (s.running = false → bs.length = 16 → (s.beatNo < argW bs 0 ∨ argW bs 0 + 65536 ≤ s.beatNo) →
        exec (.beatSync n) s = .next (s.fail n.val stBadArg)))) ∧
  (∀ (s : State) (n : Fin 64) (bs : List Byte) (t : Nat),
    (Given (s.at t) n 0xF1 [] bs → bs.length = 0 → s.cp.phase = 4 → ∃ w : State, exec (.holdEnter n t) s = .next (w.fail n.val stOk) ∧
      w.cp.phase = 5 ∧ w.sup.cause = 4 ∧ w.sup.count = min 65535 (s.sup.count + 1) ∧ w.cores = []) ∧
    (Given (s.at t) n 0xF2 [] bs → bs.length = 0 → s.cp.phase = 5 → s.sup.cause = 4 → s.supplyOk = true →
      exec (.holdExit n t) s = .next (((s.at t).beginExit
        (max (max s.now t) (s.cp.stableAt.getD (max s.now t) + 10000000))).fail n.val stOk))) ∧
  (∀ (s : State) (key v : Nat), key ≠ 0x0040 →
    (∀ k, (s.queuePolicy key v).policy k = s.policy k) ∧ (s.queuePolicy key v).pol.routing = s.pol.routing ∧
    (key ≠ 1 → (s.queuePolicy key v).takePolicies.policy key = v) ∧
    (key = 1 → (s.queuePolicy key v).takePolicies.pol.routing = some v) ∧ (s.queuePolicy key v).takePolicies.pol.next = [])

/-- At a live device with the port trained: a message into a core store, for the running epoch and within a buffer of the
core, leaves exactly its bytes at its address, adds its signal to the target counter (which stays at or below 65,535) and
the poison of its flits to the step, and touches neither DRAM nor a sequence. One for another epoch is counted as discarded,
with its signal. One outside every buffer raises the knell with REMOTE_RANGE. One for DRAM waits while DRAM is closed, and one
for a region while its page comes to DEVICE or, in HOST under the halt policy, is sent for. A re-formation copy without a SHRINK
is logged and counted as discarded. A control message applies its signal, or is counted as discarded outside its epoch. A
message can end a re-formation (finishReform), which is nothing unless one is in progress. -/
def Obligations.MessagesAndSignalsArrive : Prop :=
  (∀ (s : State) (p : Port) (d : MsgDesc) (data : List Byte) (poison : List Nat) (t : Nat),
    s.live = true → s.cp.phase = 4 → (s.port p).trained = true →
    ((s.at t).messageWaits d data.length = true → exec (.message p d data poison t) s = .next (s.at t)) ∧
    ((s.at t).messageWaits d data.length = false →
      (∀ w, (s.at t).messagePages d data.length ≠ [] → (s.at t).promoteAll ((s.at t).messagePages d data.length) = (w, true) →
        exec (.message p d data poison t) s = .next w) ∧
      (d.space = 4 → d.epoch = reformEpoch → (∀ j ∈ s.mb.jobs, j.kind ≠ .shrink) → exec (.message p d data poison t) s =
        .next (((s.at t).logCar 0x66 d.addr).count 0 11 1).finishReform) ∧
      ((d.space ≠ 4 ∨ d.epoch ≠ reformEpoch) →
        (s.runsEpoch d.epoch = true → d.space = 0 → s.bufferHolds 0 d.rcore.val d.addr data.length = true →
          (d.sigEn = true → (s.core d.target.val).sem d.pair.val d.side + d.count ≤ 65535) →
          ∃ w : State, exec (.message p d data poison t) s = .next w.finishReform ∧ w.dram = s.dram ∧ w.kv = s.kv ∧
            w.ep.poison = (s.ep.poison || !poison.isEmpty) ∧
            (∀ x, (w.core d.rcore.val).store.read x =
              if d.addr ≤ x ∧ x < d.addr + data.length then data.getD (x - d.addr) 0
              else (s.core d.rcore.val).store.read x) ∧
            ∀ c pr sd, (w.core c).sem pr sd = (s.core c).sem pr sd +
              if d.sigEn = true ∧ c = d.target.val ∧ pr = d.pair.val ∧ sd = d.side then d.count else 0) ∧
        (s.runsEpoch d.epoch = false →
          let a := ((s.at t).absorbed d.epoch).count 0 11 1
          exec (.message p d data poison t) s =
            .next (if d.sigEn then a.count 1 (16 * Port.idx p + 7) 1 else a).finishReform) ∧
        (s.runsEpoch d.epoch = true → s.bufferHolds d.space d.rcore.val d.addr data.length = false →
          (s.at t).messagePages d data.length = [] → exec (.message p d data poison t) s = .next
            ((((s.at t).absorbed d.epoch).logCar 0x66 d.addr).raiseKnell 0x05 0 0 0).finishReform)))) ∧
  (∀ (s : State) (p : Port) (d : MsgDesc) (t : Nat), s.live = true → s.cp.phase = 4 → (s.port p).trained = true →
    (s.runsEpoch d.epoch = false → exec (.controlSignal p d t) s = .next ((s.at t).count 1 (16 * Port.idx p + 7) 1)) ∧
    (s.runsEpoch d.epoch = true → d.sigEn = true → (s.core d.target.val).sem d.pair.val d.side + d.count ≤ 65535 →
      ∃ w : State, exec (.controlSignal p d t) s = .next w ∧ w.dram = s.dram ∧ w.kv = s.kv ∧ w.ep = s.ep ∧
        ∀ c pr sd, (w.core c).sem pr sd = (s.core c).sem pr sd +
          if c = d.target.val ∧ pr = d.pair.val ∧ sd = d.side then d.count else 0)) ∧
  (∀ s : State, s.reformJob = none → s.finishReform = s)

/-- A chunk from a tree neighbour for the running epoch, of a live instance: under commit-on-tail one with a good tail is
acknowledged and used, one with a bad tail is refused once with CHUNK_NAK, and the second time raises the knell; under early use a
bad tail raises it at once. Outside its epoch, for no plan op or from no neighbour a chunk is discarded and counted. Going up it joins
the inputs; in spill mode it goes to its place in the spill area, and the chunk that it completes joins the queue of the spill core.
A chunk whose inputs are all there is combined by the op's rule in ascending position (elements that are poisoned are free), kept
and sent to the parent, once; corrected errors of the memory are counted. A spilled instance does so on its spill core, first come
first served, from what the spill area holds. CHUNK_ACK ends the retention of the copy; CHUNK_NAK resends it once. -/
def Obligations.ReductionChunksCombine : Prop :=
  (∀ (s : State) (c : ChunkMsg) (r : CarRec), s.live = true → s.cp.phase = 4 → s.memberRec = some r →
    (s.runsEpoch c.epoch = false ∨ planNops r.plan ≤ c.pop ∨ (r.pnode c.pop).arrives c.down c.src = none →
      exec (.chunk c) s = .next (s.chunkDiscard c.epoch)) ∧
    (∀ (i : Inst) (pos : Nat), s.runsEpoch c.epoch = true → c.pop < planNops r.plan →
      (r.pnode c.pop).arrives c.down c.src = some pos → s.inst c.pop c.use = some i →
      let a := s.absorbed c.epoch
      ((r.pnode c.pop).o.early = true →
        (tailOk c = true → exec (.chunk c) s = .next (a.chunkUse r c pos)) ∧
        (tailOk c = false → i.router = false → exec (.chunk c) s = .next (a.tailFail c)) ∧
        (tailOk c = false → i.router = true →
          exec (.chunk c) s = .next (((a.chunkUse r c pos).combine r c.pop c.use c.chunk 0 false).tailFail c))) ∧
      ((r.pnode c.pop).o.early = false →
        (tailOk c = true →
          exec (.chunk c) s = .next ((a.notice "CHUNK_ACK" c.src (a.chunkArgs c)).chunkUse r c pos)) ∧
        (c.down = false → i.router = true → tailOk c = true → (∀ x ∈ i.ins, x.k ≠ c.chunk ∨ x.pos ≠ pos) → ∃ w : State,
          exec (.chunk c) s = .next w ∧ w.out = s.out ++ [.notice "CHUNK_ACK" c.src (s.chunkArgs c)] ∧
          w.inst c.pop c.use = some { i with ins := i.ins ++ [⟨c.chunk, pos, c.data, c.poison⟩] } ∧ w.cores = s.cores) ∧
        (tailOk c = false → i.nacked.contains (c.chunk, c.src, c.down) = false → ∃ w : State, exec (.chunk c) s = .next w ∧
          w.out = s.out ++ [.notice "CHUNK_NAK" c.src (s.chunkArgs c)] ∧ w.cores = s.cores ∧
          w.inst c.pop c.use = some { i with nacked := (c.chunk, c.src, c.down) :: i.nacked }) ∧
        (tailOk c = false → i.nacked.contains (c.chunk, c.src, c.down) = true → exec (.chunk c) s = .next (a.tailFail c))))) ∧
  (∀ (s : State) (r : CarRec) (pop use : Nat) (i : Inst) (x : ChunkIn), s.inst pop use = some i → i.router = false →
    (∀ y ∈ i.ins, y.k ≠ x.k ∨ y.pos ≠ x.pos) →
    let j := { i with ins := i.ins ++ [x] }
    (s.addInput r pop use x).inst pop use = some j ∧ (s.addInput r pop use x).rt.ready = s.rt.ready ++
      (if (j.inputsOf (r.pnode pop) x.k).isSome then [(pop, use, x.k)] else []) ∧
    ∀ n < x.data.length, (s.addInput r pop use x).dram.bytes.read (spillAt r pop use x.pos x.k + n) = x.data.getD n 0) ∧
  (∀ (s : State) (r : CarRec) (pop use k fixed : Nat) (upset : Bool) (i : Inst) (ins : List ChunkIn), s.inst pop use = some i →
    i.combined.contains k = false → i.inputsOf (r.pnode pop) k = some ins → (r.pnode pop).root = false →
    (r.pnode pop).o.early = false →
    let n := kindWire (r.pnode pop).o.kind
    let data := combineChunks (r.pnode pop).o.kind (ins.map ChunkIn.data)
    let bad := if upset then List.range (data.length / n) else (ins.flatMap ChunkIn.poison).foldl NatSet.insert []
    let w := s.combine r pop use k fixed upset
    (∃ d sent, w.inst pop use = some { i with
        combined := i.combined ++ [k], outs := i.outs ++ [⟨k, false, (r.pnode pop).parent, false, d, bad⟩], sent := sent } ∧
      d.length = data.length ∧ ∀ b, b / n ∉ bad → d.getD b 0 = data.getD b 0) ∧
    w.rt.fixed = s.rt.fixed + fixed ∧ w.cores = s.cores ∧ w.dram = s.dram) ∧
  (∀ (s : State) (r : CarRec) (i : Inst) (pop use k : Nat), s.memberRec = some r → s.inst pop use = some i → s.running = true →
    (∀ upset, i.router = true →
      exec (.chunkCombine pop use k upset) s = .next (s.combine r pop use k upset.fixed upset.bad)) ∧
    (∀ sp, spillDecl s.pat.image = some sp →
      (s.dram.closed = true ∨ s.rt.ready.head? ≠ some (pop, use, k) ∨ s.spillCoreFree sp.1 (r.pnode pop).o.kind = false →
        exec (.spillService pop use k) s = .next s) ∧
      (s.dram.closed = false → s.rt.ready.head? = some (pop, use, k) → s.spillCoreFree sp.1 (r.pnode pop).o.kind = true →
        ∃ w : State, exec (.spillService pop use k) s = .next (w.combineOf r pop use k
            ((r.pnode pop).inputs.map (fun p => s.spillGet r pop use p k)) false) ∧
          w.rt.ready = s.rt.ready.tail ∧ w.rt.insts = s.rt.insts))) ∧
  (∀ (s : State) (r : CarRec) (x : ChunkRef) (i : Inst), s.live = true → s.cp.phase = 4 → s.memberRec = some r →
    s.runsEpoch x.epoch = true → s.inst x.pop x.use = some i →
    (let mine := fun o : ChunkOut => o.k == x.chunk && o.down == x.down && o.dest == x.src
     exec (.chunkAck x) s = .next ((s.updInst x.pop x.use (fun i =>
       { i with outs := i.outs.filter (fun o => !mine o) })).release r x.pop x.use)) ∧
    ∀ o, i.outs.find? (fun o => o.k == x.chunk && o.down == x.down && o.dest == x.src) = some o →
      (o.resent = false → ∃ (w : State) (sent : List (Nat × Nat)), exec (.chunkNak x) s = .next w ∧
        w.inst x.pop x.use = some { i with
          outs := i.outs.map (fun p => if p == o then { p with resent := true } else p), sent := sent }) ∧
      (o.resent = true → exec (.chunkNak x) s = .next s))

/-- On a trained port outside a retrain: an undecodable DATA flit is refused by one NAK that names the last good flit, and
not again until a good one comes; a good flit in sequence is taken and ends the refusal; one out of sequence is refused. A
NAK resends what is not acknowledged, in order, and loses none of it; the eighth resend of one flit in a row starts a
retrain. 20 microseconds without an ACK advance start one. A lane that loses lock starts one, and fails at the second loss
within 1,024 beats. A retrain without a failed lane ends with the retry buffer whole. A failed lane degrades a full port to
its other half; one of the half in use takes the port down. (settleLeft ends instances and applies signals whose flits have left;
with none of them it is nothing.) -/
def Obligations.LinkRowsKeepFlits : Prop :=
  (∀ (s : State) (p : Port) (raw : List Byte), (s.port p).trained = true → (s.port p).train = none →
    (flitDecode raw = none →
      ((s.port p).resync = true → exec (.dataFlit p raw) s = .next s.settleLeft) ∧
      ((s.port p).resync = false → ∃ w : State, exec (.dataFlit p raw) s = .next w.settleLeft ∧
        (∃ pool n, w.out = (s.forceIdle p).out ++ [.flit p (flitEncode (nakHdr (s.port p).rxSeq pool n) [])]) ∧
        (w.port p).resync = true ∧ (w.port p).rxSeq = (s.port p).rxSeq ∧ (w.port p).retry = (s.port p).retry ∧
        w.cores = s.cores ∧ w.dram = s.dram ∧ w.kv = s.kv)) ∧
    (∀ fx at_, flitDecode raw = some (fx, at_) →
      let h := leNat (fx.take 8)
      let a := (s.noteFixes p at_).noteAck p h
      (hdrType h = 1 → hdrSeq h = ((s.port p).rxSeq + 1) % 4096 → ∃ w : State, exec (.dataFlit p raw) s = .next w.settleLeft ∧
        (w.port p).rxSeq = hdrSeq h ∧ (w.port p).resync = false) ∧
      (hdrType h = 1 → hdrSeq h ≠ ((s.port p).rxSeq + 1) % 4096 →
        exec (.dataFlit p raw) s = .next ((s.noteFixes p at_).sendNak p).settleLeft) ∧
      (hdrType h = 2 → ∃ w : State, exec (.nak p raw) s = .next w.settleLeft ∧ (a.port p).retry <+: (w.port p).retry ∧
        ∀ f fs, (a.port p).retry = f :: fs →
          let n := if (a.port p).resends ≠ 0 ∧ (a.port p).resendSeq = hdrSeq f.1 then (a.port p).resends + 1 else 1
          (w.port p).resends = n ∧ (8 ≤ n → (w.port p).train = some s.now)))) ∧
  (∀ (s : State) (p : Port) (t : Nat), (s.port p).trained = true → (s.port p).train = none → (s.port p).retry ≠ [] →
    20000 ≤ max s.now t - (s.port p).ackAt → exec (.ackStall p t) s = .next ((s.at t).retrain p 2)) ∧
  (∀ (s : State) (p : Port) (cause : Nat), (s.retrain p cause).port p = { s.port p with train := some s.now }) ∧
  (∀ (s : State) (p : Port) (lane : Fin 8), (s.port p).trained = true → (s.port p).serves lane.val = true →
    let w := s.setPort p { s.port p with
      lockLoss := (lane.val, s.beat.num) :: (s.port p).lockLoss.filter (fun e => e.1 != lane.val) }
    ((∀ e ∈ (s.port p).lockLoss, e.1 = lane.val → 1024 < s.beat.num - e.2) →
      exec (.laneLockLoss p lane) s = .next (w.retrain p 3)) ∧
    ((∃ e ∈ (s.port p).lockLoss, e.1 = lane.val ∧ s.beat.num - e.2 ≤ 1024) →
      exec (.laneLockLoss p lane) s = .next (w.laneFail p lane.val))) ∧
  (∀ (s : State) (p : Port) (failed : Option (Fin 8)), (s.port p).trained = true → (s.port p).train ≠ none →
    ((∀ l, failed = some l → (s.port p).serves l.val = false) → ∃ w : State,
      exec (.retrainComplete p failed) s = .next w.settleLeft ∧ (w.port p).train = none ∧ (w.port p).resends = 0 ∧ (s.port p).retry <+: (w.port p).retry) ∧
    (∀ l, failed = some l → (s.port p).serves l.val = true →
      exec (.retrainComplete p failed) s = .next (s.laneFail p l.val))) ∧
  (∀ (s : State) (p : Port) (lane : Nat),
    ((s.port p).st = .full → (s.laneFail p lane).port p =
      { s.port p with st := .degraded (decide (lane < 4)), train := some s.now }) ∧
    (∀ u, (s.port p).st = .degraded u → (s.port p).serves lane = true →
      ((s.laneFail p lane).port p).st = .down ∧ ((s.laneFail p lane).port p).retry = []) ∧
    (∀ u, (s.port p).st = .degraded u → (s.port p).serves lane = false → s.laneFail p lane = s)) ∧
  (∀ s : State, s.rt.owed = [] → s.rt.insts = [] → s.settleLeft = s)

/-- The IDLE flit that a port sends carries bits [15:0] of the sender's beat number at that time. When a trained port
receives an IDLE flit, the device's beat does not change, and the port's count of beat mismatches in TELEMETRY rises by one
exactly when the value received differs from the receiver's own bits [15:0]. -/
def Obligations.IdleFlitsCarryBeat : Prop :=
  (∀ (s : State) (p : Port), ∃ word, (s.sendIdle p).out = s.out ++ [.flit p (flitEncode word [])] ∧ fld word 30 15 = s.beatNo % 65536) ∧
  (∀ (s : State) (p : Port) (raw fx : List Byte) (at_ : List Nat), (s.port p).trained = true → (s.port p).train = none →
    flitDecode raw = some (fx, at_) → hdrType (leNat (fx.take 8)) = 0 → ∃ t : State, exec (.idleFlit p raw) s = .next t ∧
      t.beat = s.beat ∧ Table.get 0 t.tele (teleKey 1 (16 * Port.idx p + 5)) =
        Table.get 0 s.tele (teleKey 1 (16 * Port.idx p + 5)) +
          (if fld (leNat (fx.take 8)) 30 15 ≠ s.beatNo % 65536 then 1 else 0))

/-- With a beat in force: an edge within 200 ns of its time starts the next beat there, with the policies that waited in
force and no miss; another is counted and ignored. Without one by then the device starts the beat at its time and counts a
miss; the second in succession makes it LOST. While LOST the beats go on from the device, and its run of edges stands; the
sixteenth edge in step takes the beat at that edge, numbered by what most ports carry; an edge out of step begins the run
anew. -/
def Obligations.BeatRowsFollowEdges : Prop :=
  ∀ (s : State) (t : Nat) (temps : List Nat), tempsOk temps = true → s.live = true →
    let a := s.at t
    let want := s.beat.start + s.period
    let d := a.now - s.beat.lastEdge
    let inStep := s.beat.relock = true ∧ s.period ≤ d + 200 ∧ d ≤ s.period + 200
    (s.beat.lost = false →
      (want ≤ a.now + 200 → a.now ≤ want + 200 → ∃ w : State, exec (.beatEdge t temps) s = .next w ∧ w.beat.num = s.nextNum % 2 ^ 48 ∧
        w.beat.start = a.now ∧ w.beat.misses = 0 ∧ w.beat.lost = false ∧ w.pol = s.takePolicies.pol ∧ w.dram.temps = temps ∧
        w.kv = s.kv ∧ w.cores = s.cores) ∧
      ((a.now + 200 < want ∨ want + 200 < a.now) → exec (.beatEdge t temps) s = .next (a.count 0 6 1)) ∧
      (a.now < want + 200 → exec (.beatMiss t temps) s = .next a) ∧
      (want + 200 ≤ a.now → ∃ w : State, exec (.beatMiss t temps) s = .next w ∧ w.beat.num = s.nextNum % 2 ^ 48 ∧ w.beat.start = want ∧
        w.beat.misses = s.beat.misses + 1 ∧ w.beat.lost = decide (1 ≤ s.beat.misses) ∧ w.pol = s.takePolicies.pol ∧
        w.kv = s.kv ∧ w.cores = s.cores)) ∧
    (s.beat.lost = true →
      (a.now < want → exec (.beatMiss t temps) s = .next a) ∧
      (want ≤ a.now → ∃ w : State, exec (.beatMiss t temps) s = .next w ∧ w.beat.num = s.nextNum % 2 ^ 48 ∧ w.beat.start = want ∧
        w.beat.lost = true ∧ w.beat.run = s.beat.run ∧ w.kv = s.kv ∧ w.cores = s.cores) ∧
      (inStep → s.beat.run = 15 → ∃ w : State, exec (.beatEdge t temps) s = .next w ∧ w.beat.lost = false ∧ w.beat.start = a.now ∧
        w.beat.num = (match s.portBeat with | some v => nearestBeat s.nextNum v | none => s.nextNum) % 2 ^ 48) ∧
      (inStep → s.beat.run ≠ 15 → exec (.beatEdge t temps) s =
        .next { a with beat := { s.beat with run := s.beat.run + 1, lastEdge := a.now } }) ∧
      (¬ inStep → exec (.beatEdge t temps) s = .next { a with beat := { s.beat with relock := true, run := 1, lastEdge := a.now } }))

/-- A refresh window opens within its time at the beat's start and closes DRAM, or, deferred by a long window, when that
one's 40 microseconds are over; a long window that is due opens at its beat, and of the requests deferred to it or to an earlier
one each takes one of its windows, and ends with its last; each window ends at its time, with a deferred refresh following a
long window at once. A core idle for 100 microseconds with no step running, or without an op list of the started pattern, has its
clock gated, unless a self-test of it waits; it starts in its wake-up phase of a beat, for a step or for that self-test. -/
def Obligations.WindowsAndClockGates : Prop :=
  (∀ (s : State) (t : Nat), (s.at t).windowsRun = true →
    (s.beat.deferRef = false → s.beat.window = 0 → max s.now t < s.beat.start + s.refreshNs →
      exec (.refreshWindow t) s = .next { s.at t with beat := { s.beat with window := 1 }, dram := { s.dram with closed := true } }) ∧
    (s.beat.deferRef = true → s.beat.window = 2 → s.beat.lastLong + 40000 ≤ max s.now t → exec (.refreshWindow t) s =
      .next { s.at t with beat := { s.beat with window := 3, deferRef := false }, dram := { s.dram with closed := true } })) ∧
  (∀ (s : State) (t : Nat) (lanes : List (Nat × Nat)) (tf : List (Port × Fin 8 × Bool)), lanesOk lanes = true →
    ((s.at t).longDue.1 = false → exec (.longWindow t lanes tf) s = .next (s.at t)) ∧
    ((s.at t).longDue.1 = true → ∃ w : State, exec (.longWindow t lanes tf) s = .next w ∧ w.beat.window = 2 ∧
      w.beat.lastLong = s.beat.start ∧
      w.beat.tasks = (s.beat.tasks.filter (fun x => !(decide (x.window ≤ s.beatNo) && decide (x.left ≤ 1)))).map
        (fun x => if x.window ≤ s.beatNo then { x with left := x.left - 1 } else x) ∧ w.beat.num = s.beat.num ∧ w.dram.closed = true ∧
      w.dram.bytes = s.dram.bytes)) ∧
  (∀ (s : State) (t : Nat),
    let a := s.at t
    (s.beat.window = 1 → exec (.windowEnd t) s = .next (if s.beat.start + s.refreshNs ≤ a.now then a.closeWindow else a)) ∧
    (s.beat.window = 2 → a.now < s.beat.lastLong + max 40000 s.refreshNs → exec (.windowEnd t) s = .next a) ∧
    (s.beat.window = 2 → s.beat.lastLong + max 40000 s.refreshNs ≤ a.now →
      (s.beat.deferRef = false → exec (.windowEnd t) s = .next a.closeWindow) ∧
      (s.beat.deferRef = true → ∃ w : State, exec (.windowEnd t) s = .next w ∧ w.beat.window = 3 ∧ w.beat.deferRef = false ∧
        w.dram.closed = true)) ∧
    (s.beat.window = 3 → exec (.windowEnd t) s =
      .next (if s.beat.lastLong + 40000 + s.refreshNs ≤ a.now then a.closeWindow else a)) ∧
    a.closeWindow.dram.closed = false ∧ a.closeWindow.beat.window = 0) ∧
  (∀ (s : State) (c : Fin 64) (t : Nat),
    (((s.at t).testsOf c.val = [] →
      (s.live = true → (s.core c.val).gated = false →
        ((s.running = false ∧ (s.core c.val).idleAt + 100000 ≤ max s.now t) ∨ (s.pat.st = .started ∧ c.val ∉ s.participants)) →
        exec (.clockGate c t) s = .next ((s.at t).updCore c.val (fun k => { k with gated := true, gatedAt := max s.now t }))) ∧
      (s.running = true → c.val ∈ s.participants → (s.core c.val).gated = true →
        max s.now t - s.beat.start = ceilDiv (s.selfIdx % 16 * s.period) 16 →
        exec (.coreWake c t) s = .next ((s.at t).updCore c.val (fun k => { k with gated := false })))) ∧
    ((s.at t).testsOf c.val ≠ [] → exec (.clockGate c t) s = .next (s.at t) ∧ ((s.core c.val).gated = true →
      max s.now t - s.beat.start = ceilDiv (s.selfIdx % 16 * s.period) 16 →
      exec (.coreWake c t) s = .next ((s.at t).wakeTests c.val)))))

/-- A burst read with one wrong symbol is counted, by stack and by channel, and queued for write-back, its bytes as stored; scrub
clears its errors. An uncorrectable one is counted and queued for a rewrite; scrub writes it poisoned. A poisoned one poisons a
running step. A channel that rebuilds a pin group counts each read. Scrub reads a burst that its pointer has reached or that waits
for its write-back, and no other; a grant of scrub reaches the eight bursts of its granule and moves the pointer on. A spared row is
recorded and its spare counted. A page of a retired frame moves to a free frame, is evicted to its HOME, or stays and is logged.
Between steps a failed burst is rewritten from its home, asked of the twin, or lost, while DRAM is open; then a STEP_RUN that
waits may go on (stepsGo). An arbiter with no background request grants the foreground stream that no other precedes; a closed
channel grants nothing. -/
def Obligations.DramRowsCorrectAndRepair : Prop :=
  (∀ (s : State) (addr : Nat) (errs : List (Nat × Nat)), dramOk addr 1 = true → errsOk errs = true → s.dramOpen = true →
    let b := addr / 128
    let a := s.addErrs b errs
    let st := (dramLoc (b * 128)).stack
    let tele (w : State) (k : Nat) := Table.get 0 w.tele (teleKey 2 (8 * st + k))
    (a.dramOut b = .clean → a.erased b = none → exec (.dramRead addr errs) s = .next a) ∧
    (a.dramOut b = .clean → a.erased b ≠ none → ∃ w : State, exec (.dramRead addr errs) s = .next w ∧
      Table.get 0 w.dram.rebuilt (dramLoc (b * 128)).chanKey = Table.get 0 s.dram.rebuilt (dramLoc (b * 128)).chanKey + 1 ∧
      w.dram.bytes = s.dram.bytes ∧ w.ep = s.ep ∧ w.cores = s.cores) ∧
    (NatSet.has s.dram.scrubDue b = false → NatSet.has s.dram.writeback b = false → exec (.scrubRead addr errs) s = .next s) ∧
    (∀ p v, a.dramOut b = .ce p v →
      (∃ w : State, exec (.dramRead addr errs) s = .next w ∧ NatSet.has w.dram.writeback b = true ∧ w.dram.bytes = s.dram.bytes ∧
        tele w 1 = tele s 1 + 1 ∧ w.ep = s.ep ∧ w.cores = s.cores ∧
        Table.get 0 w.dram.ceCount (dramLoc (b * 128)).chanKey = Table.get 0 s.dram.ceCount (dramLoc (b * 128)).chanKey + 1) ∧
      (NatSet.has s.dram.scrubDue b = true ∨ NatSet.has s.dram.writeback b = true → ∃ w : State, exec (.scrubRead addr errs) s = .next w ∧ Table.get [] w.dram.errs b = [] ∧ w.dram.bytes = s.dram.bytes ∧
        NatSet.has w.dram.writeback b = false ∧ NatSet.has w.dram.scrubDue b = false)) ∧
    (a.dramOut b = .ue →
      (∃ w : State, exec (.dramRead addr errs) s = .next w ∧ NatSet.has w.dram.rewrite b = true ∧ tele w 2 = tele s 2 + 1 ∧
        w.dram.bytes = s.dram.bytes) ∧
      (NatSet.has s.dram.scrubDue b = true ∨ NatSet.has s.dram.writeback b = true → ∃ w : State,
        exec (.scrubRead addr errs) s = .next w ∧ NatSet.has w.dram.poison b = true ∧ Table.get [] w.dram.errs b = [] ∧
        NatSet.has w.dram.rewrite b = true ∧ NatSet.has w.dram.scrubDue b = false)) ∧
    (a.dramOut b = .poison → a.erased b = none → ∃ w : State, exec (.dramRead addr errs) s = .next w ∧ w.ep.poison = (s.ep.poison || s.running) ∧
      w.dram = a.dram)) ∧
  (∀ (s : State) (st ch ba row : Nat), rowOk st ch ba row = true → s.dramOpen = true →
    let l : DramLoc := ⟨st, ch, ba, row⟩
    let used := Table.get 0 s.dram.spareUsed l.bankKey
    NatSet.has s.dram.copying l.rowKey = true → used < 16 → s.spareMapFull = false → ∃ w : State,
      exec (.rowSpared st ch ba row) s = .next w ∧ w.img.spareMap = s.img.spareMap ++ [(l.chanKey, ba, row, used)] ∧
      NatSet.has w.dram.copying l.rowKey = false ∧ Table.get 0 w.dram.spareUsed l.bankKey = used + 1) ∧
  (∀ (s : State) (rec : Nat) (p : Page), recOk rec = true → s.page rec = some p → s.dramOpen = true → s.running = false →
    p.st = 2 → s.frameRetired p.frame = true →
    (∀ f, s.freeFrame = some f → ∃ w : State, exec (.frameRetireCopy rec) s = .next w ∧ w.page rec = some { p with frame := f }) ∧
    (s.freeFrame = none → (p.home = 0 ∨ p.pin ≠ 0) → exec (.frameRetireCopy rec) s = .next (s.retirePending p.frame)) ∧
    (s.freeFrame = none → p.home ≠ 0 → p.pin = 0 →
      let gone := some { p with st := 0, dirty := false, frame := 0, evpend := false }
      (p.dirty = false → ∃ w : State,
        exec (.frameRetireCopy rec) s = .next w.finishTiers ∧ w.page rec = gone ∧ w.dram = s.dram ∧ w.host = s.host) ∧
      (∀ v, p.dirty = true → s.copyOut p.frame p.home = some v → ∃ w : State,
        exec (.frameRetireCopy rec) s = .next w.finishTiers ∧ w.page rec = gone ∧ w.dram = v.dram ∧ w.host = v.host) ∧
      (p.dirty = true → s.copyOut p.frame p.home = none →
        exec (.frameRetireCopy rec) s = .next ((s.logCp 0x13 rec (p.home * 4096)).retirePending p.frame)))) ∧
  (∀ (s : State) (b : Nat), dramOk (b * 128) 1 = true → s.running = false → s.dram.closed = false →
    NatSet.has s.dram.rewrite b = true →
    (s.canRefetch = true → exec (.burstRewrite b) s =
      .next { s with out := s.out ++ [.ptNotice "REFETCH_REQUEST" [3, b * 128, 128] []] }) ∧
    (s.canRefetch = false → s.burstHome b = none →
      exec (.burstRewrite b) s = .next ((s.rewritten b).logCp 0xD4 128 (b * 128)).stepsGo) ∧
    (∀ h bs, s.canRefetch = false → s.burstHome b = some h → s.hostRead h 128 = some bs → bs.length = 128 → ∃ w : State,
      exec (.burstRewrite b) s = .next w.stepsGo ∧ NatSet.has w.dram.rewrite b = false ∧
      ∀ x, w.dram.bytes.read x = if b * 128 ≤ x ∧ x < b * 128 + 128 then bs.getD (x - b * 128) 0 else s.dram.bytes.read x)) ∧
  (∀ s : State, (∀ j ∈ s.mb.jobs, j.kind ≠ .stepWait) → s.stepsGo = s) ∧
  (∀ (s : State) (a : Arbiter), let key := Arbiter.key a
    Table.get 0 (s.bgGrant a 0).dram.scrub key = (Table.get 0 s.dram.scrub key + 1) % 262144 ∧ (s.bgGrant a 0).dram.bytes = s.dram.bytes ∧
    ∀ i < 8, NatSet.has (s.bgGrant a 0).dram.scrubDue (scrubBase key (Table.get 0 s.dram.scrub key) + i) = true) ∧
  (∀ (s : State) (a : Arbiter) (t : Nat), arbiterOk a = true →
    ((a ≠ .host ∧ s.dram.closed = true) → exec (.granuleGrant a t) s = .next (s.at t)) ∧
    ((a = .host ∨ (s.dram.closed = false ∧ s.dram.trained = true ∧ s.dram.selfRef = false)) → (s.at t).background a = [] →
      (s.at t).foreground a ≠ [] → ∃ w : State, exec (.granuleGrant a t) s = .next w ∧ w.cores = s.cores ∧
        ∃ x ∈ (s.at t).foreground a, (∀ y ∈ (s.at t).foreground a, fgBefore y x = false) ∧
          Table.get none w.dram.grants (Arbiter.key a) = some (.stream x.2.1 x.2.2)))

/-- A pair's switch and return are logged, with a chime, and noted. PWRGD_MAIN low, a rail out of range and 1 ms on backup enter hold with
causes 1, 2 and 3. Entering hold from a live device: the state is HOLD with that cause, one hold more is counted, no core
state is left, the host link is down, DRAM stands in self-refresh with its bytes, and no COMMITTED length changes. After 10
ms of stable supplies a hold of cause 1 to 3 begins its exit; 22 ms later the device is back in the phase it left, the exit
logged. PWRGD_MAIN high ends the wait of start-up. -/
def Obligations.SupplyRowsEnterAndLeaveHold : Prop :=
  (∀ (s : State) (p : Pair) (t : Nat),
    let a := s.at t
    (s.sup.onBackup.getD (Pair.idx p) false = false → exec (.supplySwitch p t) s = .next (({ a with sup := { s.sup with
      onBackup := s.sup.onBackup.set (Pair.idx p) true, backupFrom := s.sup.backupFrom.set (Pair.idx p) (some a.now),
      switchSeen := true } }).switchEvent 0x90 (Pair.idx p)).noteSupply) ∧
    (s.sup.onBackup.getD (Pair.idx p) false = true → exec (.supplyReturn p t) s = .next (({ a with sup := { s.sup with
      onBackup := s.sup.onBackup.set (Pair.idx p) false, backupFrom := s.sup.backupFrom.set (Pair.idx p) none,
      switchSeen := true } }).switchEvent 0x91 (Pair.idx p)).noteSupply) ∧
    (∀ x, s.sup.backupFrom.getD (Pair.idx p) none = some x → x + 1000000 ≤ max s.now t →
      exec (.backupTime p t) s = .next (a.enterHold 3 none)) ∧
    exec (.pwrgd t) s = .next (({ a with cp := { s.cp with pwrgd := false } }).noteSupply.enterHold 1 none) ∧
    (∀ r, r ∉ s.sup.railsOut → exec (.rail r t) s =
      .next (({ a with sup := { s.sup with railsOut := r :: s.sup.railsOut } }).noteSupply.enterHold 2 none)) ∧
    exec (.pwrgdRise t) s = .next (({ a with cp := { s.cp with pwrgd := true } }).noteSupply.beginStart) ∧
    (s.live = true → s.cp.phase = 5 → s.sup.cause ≠ 4 → s.cp.exiting = none → a.supplyStable = true →
      exec (.holdAutoExit t) s = .next { a with cp := { s.cp with exiting := some a.now } })) ∧
  (∀ (s : State) (cause : Nat) (keep : Option Nat), s.live = true → s.cp.phase ≠ 5 →
    let w := s.enterHold cause keep
    w.cp.phase = 5 ∧ w.sup.cause = cause ∧ w.sup.count = min 65535 (s.sup.count + 1) ∧ w.cp.holdFrom = some (s.now, s.cp.phase) ∧
    w.cores = [] ∧ w.hif.up = false ∧ w.dram.bytes = s.dram.bytes ∧ w.dram.selfRef = s.dram.trained ∧ w.pat = s.pat ∧
    ∀ q, (w.lens q).committed = (s.lens q).committed) ∧
  (∀ (s : State) (modules rate : Nat) (ports : List (Port × PortTrain)) (t t0 ph x : Nat), ucieOk modules rate = true →
    s.live = true → s.cp.phase = 5 → s.cp.exiting = some x → x + 22000000 ≤ max s.now t → s.cp.holdFrom = some (t0, ph) → ∃ w : State,
    exec (.holdExitComplete modules rate ports t) s = .next w ∧ w.cp.phase = ph ∧ w.cp.holdFrom = none ∧ w.cp.exiting = none ∧
      w.dram.selfRef = false ∧ w.dram.bytes = s.dram.bytes ∧ w.sup.exited = true ∧ w.kv = s.kv ∧ w.pat = s.pat ∧
      w.mb.heldChimes = [])

/-- A rail below its sag level begins a sag that is kept; its end takes it off and, up to 64 a beat, logs one event. A droop
stretches the core's clock to between 2.2 and 3.0 GHz, the recovery restores 3.0 GHz. A power sample moves the cap factor
one step of 1/256, down to at least 64 above a cap or on a fast rise and else up to at most 256; a thermal sample moves the
thermal factor likewise; the duty factor is the lower of the two. A thermal trip opens its record in the journal, darkens
every port and the host link, and stops the device. -/
def Obligations.PowerRowsShapeLoad : Prop :=
  (∀ (s : State) (r : AnyRail) (mv t : Nat),
    ((∀ g ∈ s.sup.sags, g.1 ≠ r) → exec (.supplySag r t) s = .next { s.at t with sup := { s.sup with
      sags := s.sup.sags ++ [(r, max s.now t, (s.at t).beatNo, (s.at t).phase)] } }) ∧
    (∀ f b ph, s.sup.sags.find? (fun g => g.1 == r) = some (r, f, b, ph) → s.live = true → ∃ w : State, exec (.sagEnd r mv t) s = .next w ∧
      w.sup.sags = s.sup.sags.filter (fun g => g.1 != r) ∧
      (s.ev.sags < 64 → w.ev.sags = s.ev.sags + 1 ∧ w.sup.sagSeen = true ∧ ∃ e, w.ev.recs.getLast? = some e ∧ e.code = 0x92 ∧
        e.data0 = (place (AnyRail.code r) 16 + mv) % 2 ^ 32 ∧ e.data1 = (max s.now t - f) % 2 ^ 64 ∧ e.beat = b ∧ e.phase = ph) ∧
      (64 ≤ s.ev.sags → w.ev = s.ev))) ∧
  (∀ (s : State) (c : Fin 64) (mv : Nat), s.live = true → s.cp.phase ≠ 5 → mv + 25 < s.pwr.vmin → ∃ w : State,
    exec (.clockStretch c mv) s = .next w ∧ (w.core c.val).clock = stretchMhz s.pwr.vmin mv ∧
    2200 ≤ (w.core c.val).clock ∧ (w.core c.val).clock ≤ 3000 ∧ ∀ d, d ≠ c.val → w.core d = s.core d) ∧
  (∀ (s : State) (c : Fin 64), s.live = true → ∃ w : State, exec (.clockFullRate c) s = .next w ∧
    w.core c.val = { s.core c.val with clock := 3000 } ∧ ∀ d, d ≠ c.val → w.core d = s.core d) ∧
  (∀ (s : State) (draw cur avg cavg : Nat), s.live = true → s.cp.phase ≠ 5 →
    let last := (draw :: s.pwr.last).take 11
    let rise := last.getD 10 (last.getLastD draw) + s.policy 0x0010 * 1000 < draw
    ∃ w : State, exec (.powerSample draw cur avg cavg) s = .next w ∧
      (s.policy 0x0012 * 1000 < avg ∨ s.policy 0x0013 * 1000 < cavg ∨ rise → w.pwr.capDuty = max 64 (s.pwr.capDuty - 1)) ∧
      (avg ≤ s.policy 0x0012 * 1000 → cavg ≤ s.policy 0x0013 * 1000 → ¬ rise →
        w.pwr.capDuty = min 256 (s.pwr.capDuty + 1)) ∧
      w.pwr.duty = min w.pwr.thermDuty w.pwr.capDuty ∧ w.pwr.thermDuty = s.pwr.thermDuty ∧
      w.pwr.sum = s.pwr.sum + draw ∧ w.pwr.samples = s.pwr.samples + 1 ∧
      (w.pwr.ballast = true → w.pwr.pwr = false ∧ w.pwr.cur = false ∧ w.pwr.therm = false)) ∧
  (∀ (s : State) (temp : Nat), s.live = true → s.cp.phase ≠ 5 → ∃ w : State, exec (.thermalSample temp) s = .next w ∧
    (s.field 0x0140 * 100 < temp → w.pwr.thermDuty = max 64 (s.pwr.thermDuty - 1)) ∧
    (temp < s.field 0x0140 * 100 → w.pwr.thermDuty = min 256 (s.pwr.thermDuty + 1)) ∧
    w.pwr.duty = min w.pwr.thermDuty w.pwr.capDuty ∧ w.pwr.capDuty = s.pwr.capDuty ∧ w.pwr.tlogic = temp) ∧
  (∀ (s : State) (st : Option Nat) (t : Nat), st.all stackOk = true → s.live = true → ∃ w : State, exec (.thermtrip st t) s = .next w ∧
    w.live = false ∧ w.hif.up = false ∧ (∀ p, (w.port p).trained = false) ∧ w.dram = s.dram ∧ w.kv = s.kv ∧
    ∃ n, JRec.trip n true ∈ w.img.journal)

/-- In ROM_CHECK a passed check puts VMIN and the identity in place and begins IMAGE, a failed one stops with FAIL 1. IMAGE
with bank F verified resolves the image and begins DRAM_TRAIN, else stops with FAIL 2. DRAM_TRAIN without a failed channel
leaves DRAM trained and begins LINK_TRAIN, with one stops with FAIL 3. LINK_TRAIN ends in READY, the watchdog count 0: the host link
on the bump region that the mounting profile selects, the other one without power, and on no more modules than the image gives;
a disabled port off, an enabled one full or degraded by the first of its three attempts that trains, down when none does. A phase
beyond its limit stops with FAIL 4. A stop is phase STOPPED, its code held and logged. -/
def Obligations.StartUpPhasesFollow : Prop :=
  ∀ (s : State) (t : Nat), s.live = true →
    let a := s.at t
    (∀ r, romOk r = true → s.cp.phase = 0 →
      (r.ok = false → ∃ w : State, exec (.romCheck r t) s = .next w ∧ w.cp.phase = 6 ∧ w.cp.fail = 1) ∧
      (r.ok = true → ∃ w : State, exec (.romCheck r t) s = .next w ∧ w.cp.phase = 1 ∧ w.cp.phaseAt = a.now ∧ w.pwr.vmin = r.vmin ∧
        w.sec.idOk = (r.identity == 0) ∧ w.sec.keyHeld = (r.identity == 0) ∧ w.dram = s.dram ∧ w.kv = s.kv)) ∧
    (s.cp.phase = 1 → (bankFOk = true → exec (.image t) s = .next (a.resolveImage.toPhase 2)) ∧
      (bankFOk = false → exec (.image t) s = .next (a.stopStart 2 0))) ∧
    (∀ fails lanes, s.cp.phase = 2 → fails.all (fun f => stackOk f.1 && decide (f.2 < 32)) = true → lanesOk lanes = true →
      (fails = [] → ∃ w : State, exec (.dramTrain fails lanes t) s = .next w ∧ w.cp.phase = 3 ∧ w.dram.trained = true ∧
        w.dram.selfRef = false ∧ w.dram.bytes = s.dram.bytes ∧ w.kv = s.kv) ∧
      (fails ≠ [] → ∃ w : State, exec (.dramTrain fails lanes t) s = .next w ∧ w.cp.phase = 6 ∧ w.cp.fail = 3)) ∧
    (∀ modules rate ports areaOk, ucieOk modules rate = true → s.cp.phase = 3 → ∃ w : State,
      exec (.linkTrain modules rate ports areaOk t) s = .next w ∧ w.cp.phase = 4 ∧ w.cp.wdog = 0 ∧
      w.hif.modules = min modules (s.field 0x0102) ∧ w.hif.up = decide (w.hif.modules ≠ 0) ∧
      w.hif.region = mountRegion (s.field 0x0100) ∧ w.hif.advOn = (w.hif.region == .advanced) ∧
      w.hif.stdOn = (w.hif.region == .standard) ∧ w.dram.bytes = s.dram.bytes ∧
      ∀ p, (s.portEnabled p = false → (w.port p).st = .disabled) ∧ (s.portEnabled p = true →
        let tries := (attemptsOf ports p).take 3
        (∀ pre rest, tries = pre ++ .full :: rest → (∀ x ∈ pre, x ∈ [PortTrain.miswired, .laneMap, .failed]) →
          (w.port p).st = .full) ∧
        (∀ pre rest up lane, tries = pre ++ .degraded up lane :: rest → (∀ x ∈ pre, x ∈ [PortTrain.miswired, .laneMap, .failed]) →
          (w.port p).st = .degraded up) ∧
        ((∀ x ∈ tries, x ∈ [PortTrain.miswired, .laneMap, .failed]) → (w.port p).st = .down))) ∧
    (s.cp.phase < 4 → phaseLimitNs s.cp.phase < a.now - s.cp.phaseAt → exec (.phaseLimit t) s = .next (a.stopStart 4 0)) ∧
    ∀ code d, (s.stopStart code d).cp = { s.cp with phase := 6, fail := code } ∧
      (s.stopStart code d).ev = (s.logEvent 0 0 0xC1 code d).ev

/-- When core c may dispatch, its op has been read without a fatal error and passes R61: DISPATCH puts an op of an engine
with room at the end of its queue with the bound registers of that moment; NOP goes on; END ends dispatch; GONG and BNDLOAD
wait; BNDSET loads its register; WCTR_ARM arms its counter, goes on where it stands armed alike, and faults where it
differs. A drained core at a BNDLOAD loads the word; one at a GONG arrives, and with every participant there all go on past
it; one that ended reports completion once. A wait beyond the limit faults with WAIT_TIMEOUT. -/
def Obligations.SequencerTakesOps : Prop :=
  (∀ (s : State) (c : Fin 64) (f : State) (ue : Bool), s.csqReady c.val = true →
    let k := s.core c.val
    let op := nextOp k
    s.csqRead c.val (opFclass op) (opId op) ((List.range 64).map (fun i => (ctlTable k 0).1 + 64 * k.pc + i)) = (f, false, ue) →
    r61 k op = none →
    let g := (f.count 3 (4 * c.val + 2) 1).updCore c.val (fun k => { k with lastOp := k.pc })
    (dispatches k op = true → exec (.dispatch c) s = .next (g.updCore c.val (fun k => k.enqueue g.now op))) ∧
    (isCtl 0 op = true → exec (.nop c) s = .next (g.updCore c.val Core.advance)) ∧
    (isCtl 1 op = true → exec (.opEnd c) s = .next (g.updCore c.val (fun k => { k.advance with csq := .ended }))) ∧
    (isCtl 2 op = true → exec (.gong c) s = .next (g.updCore c.val (fun k => { k with csq := .gongWait }))) ∧
    (isCtl 3 op = true → exec (.bndset c) s = .next (g.updCore c.val (fun k =>
      { k.advance with bnd := Table.set 0 k.bnd (opImm op 0 % 32) (opImm op 1) }))) ∧
    (isCtl 4 op = true → exec (.bndload c) s = .next (g.updCore c.val (fun k => { k with csq := .bndWait }))) ∧
    (isCtl 5 op = true →
      let n := (armArgs (g.core c.val) op).1
      let x := opImm op 0 % 64
      (65536 < n → exec (.wctrArm c) s = .next (g.faultKnell c.val 0x01 (opId op) n 0x01)) ∧
      (n ≤ 65536 → Table.get none g.fab.ctrs x = none → ∃ w : State, exec (.wctrArm c) s = .next w ∧
        Table.get none w.fab.ctrs x = some ⟨n, (armArgs (g.core c.val) op).2, 0, [], [], [], []⟩ ∧
        w.core c.val = (g.core c.val).advance) ∧
      (∀ y, n ≤ 65536 → Table.get none g.fab.ctrs x = some y →
        (y.count = n ∧ y.factor = (armArgs (g.core c.val) op).2 → exec (.wctrArm c) s = .next (g.updCore c.val Core.advance)) ∧
        (¬ (y.count = n ∧ y.factor = (armArgs (g.core c.val) op).2) →
          exec (.wctrArm c) s = .next (g.faultKnell c.val 0x01 (opId op) n 0x01))))) ∧
  (∀ (s : State) (c : Fin 64),
    (∀ f, s.drainedIn c.val .bndWait = true →
      let op := nextOp (s.core c.val)
      s.csqRead c.val (opFclass op) (opId op) ((List.range 4).map (opImm op 1 + ·)) = (f, false, false) →
      exec (.boundRegisterLoad c) s = .next (f.updCore c.val (fun k => { k.advance with
        bnd := Table.set 0 k.bnd (opImm op 0 % 32) ((s.core c.val).store.readLe (opImm op 1) 4), csq := .running }))) ∧
    (s.drainedIn c.val .gongWait = true → ∃ w : State, (∀ d, w.gongOf d = if d = c.val then some (opImm (nextOp (s.core c.val)) 0) else s.gongOf d) ∧
      (∀ d, w.core d = if d = c.val then { s.core d with csq := .atGong } else s.core d) ∧
      ((∀ d < 64, ∀ id, s.gongOf d = some id → d ≠ c.val → id = opImm (nextOp (s.core c.val)) 0) →
        exec (.gongArrival c) s = .next w)) ∧
    (s.running = true → s.cp.phase = 4 → s.participants ≠ [] → (∀ d ∈ s.participants, (s.core d).csq = .atGong) → ∃ w : State,
      exec .gongRelease s = .next w ∧ w.fab.gong = [] ∧
      (∀ d ∈ s.participants, w.core d = { s.core d with pc := (s.core d).pc + 1, csq := .running }) ∧
      ∀ d, d ∉ s.participants → w.core d = s.core d) ∧
    (s.drainedIn c.val .ended = true → (s.core c.val).done = false → exec (.coreCompletion c) s =
      .next (s.updCore c.val (fun k => { k with done := true, idleAt := s.now }))) ∧
    ∀ (e : Engine) (t : Nat) (since : Nat) (op : List Nat), s.coreLive c.val = true → s.car.waitStop = none →
      (s.at t).waitingSince c.val (Engine.code e) = some (since, op) →
      patWaitLimit s.pat.image < max s.now t - since - pausedNs s.car.pauses since (max s.now t) →
      exec (.waitTimeout c e t) s = .next ((s.at t).faultKnell c.val 0x03 (opId op) 0 0x01))

/-- What an engine row does at a core that may execute: with an op of the row running on its engine it runs that op on; with the
engine free and an op of the row at the head of its queue, it starts and runs it once its per-op waits are satisfied, and till then
changes nothing. -/
def runsRow (s w : State) (c e : Nat) (i : Instr) (ok : Nat → Prop) : Prop :=
  (∀ r, w.eng c e = some r → ok (opCode r.op.w) → exec i s = .next (w.engLoop engFuel c e)) ∧
  (∀ q qs, w.eng c e = none → Table.get [] (w.core c).queues e = q :: qs → ok (opCode q.w) →
    ((w.core c).waitsOk (opStartWaits q.w) = true → exec i s = .next ((w.startOp c e q).engLoop engFuel c e)) ∧
    ((w.core c).waitsOk (opStartWaits q.w) = false → exec i s = .next w))

/-- At a core that may execute, each of the nineteen engine rows does what a row does (runsRow), with its engine and its opcodes,
after the bit errors given have come to stand in the store. TILE_START runs an op on whose next tile is to begin. A start whose
control words stand without error takes the op off the queue, subtracts its waits and leaves a run at the nest's first position,
with its bounds as the levels give them, within their maxima. A run goes on move by move until a move stops. -/
def Obligations.EngineRowsRunTheirOps : Prop :=
  (∀ (s : State) (c : Fin 64) (t : Nat) (up : List (Nat × Nat)),
    let w := (s.at t).upset c up
    w.coreLive c = true →
    runsRow s w c 1 (.mxuOp c t up) (· ≠ 0x20) ∧ runsRow s w c 1 (.attn c t up) (· = 0x20) ∧
    runsRow s w c 2 (.vuOp c t up) (fun _ => True) ∧
    runsRow s w c 3 (.exp c t up) (· = 1) ∧ runsRow s w c 3 (.exp2 c t up) (· = 2) ∧ runsRow s w c 3 (.log c t up) (· = 3) ∧
    runsRow s w c 3 (.log2 c t up) (· = 4) ∧ runsRow s w c 3 (.rcp c t up) (· = 5) ∧ runsRow s w c 3 (.rsqrt c t up) (· = 6) ∧
    runsRow s w c 3 (.rud c t up) (· = 0x10) ∧
    runsRow s w c 4 (.rsuOp c t up) (fun _ => True) ∧
    runsRow s w c 5 (.refmax c t up) (· = 1) ∧ runsRow s w c 5 (.merge c t up) (· = 2) ∧ runsRow s w c 5 (.lwadd c t up) (· = 3) ∧
    runsRow s w c 5 (.lwround c t up) (· = 4) ∧ runsRow s w c 5 (.rollscale c t up) (· = 5) ∧
    runsRow s w c 6 (.copy c t up) (· = 1) ∧ runsRow s w c 6 (.mcast c t up) (· = 2) ∧ runsRow s w c 6 (.fetch c t up) (· = 3) ∧
    ∀ (e : Engine) r, w.eng c (Engine.code e) = some r → r.tileOpen = false →
      exec (.tileStart c e t up) s = .next (w.engLoop engFuel c (Engine.code e))) ∧
  (∀ (s : State) (c e : Nat) (q : QOp) (qs : List QOp), Table.get [] (s.core c).queues e = q :: qs →
    (∀ a ∈ controlAddrs (s.core c) q.w ++ memBoundAddrs (s.core c) q,
      popcount (Table.get 0 (s.core c).flips (a / 8)) = 0 ∧ NatSet.has (s.core c).poison (a / 64) = false) →
    (listCount (s.core c) q).1 ≤ (listCount (s.core c) q).2 →
    (∀ l < 6, ((descOf (descWords (s.core c) (opLoop q.w))).level l).src = 3 ∨
      (startBounds (s.core c) q).getD l 0 ≤ ((descOf (descWords (s.core c) (opLoop q.w))).level l).max) →
    Table.get [] ((s.startOp c e q).core c).queues e = qs ∧
    (∃ r, (s.startOp c e q).eng c e = some r ∧ r.op = q ∧ r.bounds = startBounds (s.core c) q ∧
      r.entries = (listCount (s.core c) q).1 ∧ r.pos = 0 ∧ r.entry = 0 ∧ r.tileOpen = false ∧ r.held = [] ∧ r.leaves = [] ∧
      r.drawn = none ∧ r.halt = none) ∧
    (∀ p side, ((s.startOp c e q).core c).sem p side = (s.core c).sem p side -
      (((opStartWaits q.w).filter (fun x => x.pair == p && x.side == side)).map Wait.count).sum) ∧
    ((s.startOp c e q).core c).store = (s.core c).store ∧ ∀ d, d ≠ c → (s.startOp c e q).core d = s.core d) ∧
  (∀ (n : Nat) (s : State) (c e : Nat), State.engLoop (n + 1) s c e =
    if (s.engStep c e).2 then State.engLoop n (s.engStep c e).1 c e else (s.engStep c e).1)

/-- A move of a run that is halted, ready or without its draw changes nothing; at the end of its nest, its last tile
closed, it completes; a tile whose waits are not satisfied stops it, one whose waits are takes them. In an open tile a move is
one cell, by engine, and after the tile's last cell its end. A cell of a core's own engine whose reads meet no error goes one
position on and adds its writes to those that the tile holds; the end of a tile that no page keeps waiting carries them out, the
per-tile signals after them. A draw gives each
index below the count once, in order; past it a counter without rescue, or all of whose indices are committed, ends the op, and
one with rescue gives a marked index that is neither handed out nor committed. Every draw is recorded with its core and its time.
Marking, late enough, adds the index to the marks. The first commit of an index, when no SEND of its tile waits for a page
(log 82), is recorded with its time since the core's draw and carries out the tile, a second only counted. A repaired halted
stream loses its halt and goes on; one halted beyond the repair limit and not repaired raises the knell with REPAIR_LIMIT. -/
def Obligations.RunsMoveByRule : Prop :=
  (∀ (s : State) (c e : Nat) (r : Run), s.eng c e = some r →
    (r.halt ≠ none ∨ r.ready = true ∨ s.running = false ∨ (opWctrEn r.op.w = true ∧ r.drawn = none) →
      s.engStep c e = (s, false)) ∧
    (r.halt = none → r.ready = false → s.running = true → r.begun = true →
      (opWctrEn r.op.w = false → r.drawn = none → r.tileOpen = false → runTotal (s.core c) r ≤ r.pos → r.entries ≤ r.entry + 1 →
        s.engStep c e = (s.completeOp c e r, false)) ∧
      ((opWctrEn r.op.w = false ∨ r.drawn ≠ none) → r.pos < runTotal (s.core c) r → r.tileOpen = false → kZero (s.core c) r = false →
        ((s.core c).waitsOk (opTileWaits r.op.w) = false → s.engStep c e = (s, false)) ∧
        ((s.core c).waitsOk (opTileWaits r.op.w) = true → ∃ w : State, s.engStep c e = (w, true) ∧
          w.eng c e = some { r with tileOpen := true, reqAt := s.now } ∧ ∀ p side, (w.core c).sem p side = (s.core c).sem p side -
            (((opTileWaits r.op.w).filter (fun x => x.pair == p && x.side == side)).map Wait.count).sum)) ∧
      ((opWctrEn r.op.w = false ∨ r.drawn ≠ none) → r.pos < runTotal (s.core c) r → r.tileOpen = true →
        (e = 6 ∨ r.held = [] ∨ r.pos % runCells (s.core c) r ≠ 0) →
        (∀ w, s.runCell c e r = (w, false) → s.engStep c e = (w, false)) ∧
        (∀ w q, s.runCell c e r = (w, true) → w.eng c e = some q →
          s.engStep c e = if q.pos % runCells (s.core c) q = 0 then w.endTile c e else (w, true)))) ∧
    (let k := s.core c
     s.runCell c 6 r = s.tmvCell c r ∧ s.runCell c 5 r = s.takeCell c 5 (lwuCell k r) ∧
     s.runCell c 4 r = s.takeCell c 4 (rsuCell s.profileL k r) ∧ s.runCell c 3 r = s.takeCell c 3 (sfuCell s.profileL s.rud k r) ∧
     s.runCell c 2 r = s.takeCell c 2 (vuCell s.profileL k r) ∧
     (opAttn r.op.w = false → s.runCell c 1 r = s.takeCell c 1 (mxuCell s.profileL k r)) ∧
     (opAttn r.op.w = true → ∃ hdr len, s.runCell c 1 r = s.takeCell c 1 (attnCell s.profileL hdr len k r))) ∧
    (∀ o : CellOut, r.poisonTile = false → e ≠ 4 → opReduces r.op.w = false →
      (∀ a ∈ o.rd, popcount (Table.get 0 (s.core c).flips (a / 8)) = 0 ∧ NatSet.has (s.core c).poison (a / 64) = false) →
      ∃ w : State, s.takeCell c e o = (w, true) ∧ (w.core c).flags = (s.core c).flags ||| o.fl ∧
        (w.core c).store = (s.core c).store ∧ w.eng c e = some { r with
          pos := r.pos + 1, held := r.held ++ o.effs, acc := o.acc, leaves := r.leaves ++ o.leaves }) ∧
    (r.poisonTile = false → r.drawn = none → kZero (s.core c) r = false → s.outWaits c r.held = false →
      let w := (s.setEng c e (some { r with
          tileOpen := false, tileFrom := s.now, reqAt := s.now, held := [], tiles := r.tiles + 1 })).carryTile c e
        ((descOf (descWords (s.core c) (opLoop r.op.w))).pitch.getD 2 1) r.op.w
        (r.held ++ (s.dueSigs c r.op.w true).map Eff.signal)
      s.endTile c e = (w, w.running))) ∧
  (∀ x : Wctr, (x.next < x.count → x.draw = .index x.next false) ∧
    (x.count ≤ x.next → (x.factor = 0 ∨ x.commits.length = x.count) → x.draw = .done) ∧
    ∀ m, x.draw = .index m true → x.count ≤ x.next ∧ x.factor ≠ 0 ∧ m ∈ x.marks ∧ m ∉ x.taken ∧ ∀ y ∈ x.commits, y.1 ≠ m) ∧
  (∀ (s : State) (c : Fin 64) (e : Engine) (t : Nat) (up : List (Nat × Nat)) (r : Run) (x : Wctr),
    let w := (s.at t).upset c up
    let ec := Engine.code e
    w.coreLive c = true → w.eng c ec = some r → opWctrEn r.op.w = true → w.ctr (opWctr r.op.w) = some x →
    (r.drawn = none → r.ready = false → r.halt = none →
      (∀ i rescue, x.draw = .index i rescue → ∃ v : State, exec (.wctrDraw c e t up) s = .next (v.engLoop engFuel c ec) ∧
        v.ctr (opWctr r.op.w) = some (let y := { x with draws := x.draws ++ [(i, c.val, w.now)] }
          if rescue then { y with taken := i :: x.taken } else { y with next := i + 1 }) ∧
        v.eng c ec = some { r with drawn := some (i, rescue), pos := 0, tileOpen := false, tileFrom := w.now }) ∧
      (x.draw = .done → exec (.wctrDraw c e t up) s = .next (w.completeOp c ec r)) ∧
      (x.draw = .wait → exec (.wctrDraw c e t up) s = .next w)) ∧
    (∀ i rescue, r.drawn = some (i, rescue) → r.ready = true →
      let r' := { r with drawn := none, ready := false, held := [], pos := 0, tileFrom := w.now, acc := [], poisonTile := false }
      ((∃ y ∈ x.commits, y.1 = i) →
        exec (.tileCommit c e t up) s = .next ((w.count 3 (4 * c.val + 1) 1).setEng c ec (some r'))) ∧
      ((∀ y ∈ x.commits, y.1 ≠ i) → w.outWaits c.val r.held = true → exec (.tileCommit c e t up) s = .next w) ∧
      ((∀ y ∈ x.commits, y.1 ≠ i) → w.outWaits c.val r.held = false → ∃ v : State,
        exec (.tileCommit c e t up) s = .next (v.carryTile c.val ec
          ((descOf (descWords (w.core c) (opLoop r.op.w))).pitch.getD 2 1) r.op.w r.held) ∧
        v.eng c ec = some { r' with tiles := r.tiles + 1 } ∧ v.out = w.out ∧ v.dram = w.dram ∧
        v.ctr (opWctr r.op.w) = some { x with commits := x.commits ++ [(i, w.now - x.drawnAt i c.val w.now)] }))) ∧
  (∀ (s : State) (n : Fin 64) (i t : Nat) (x : Wctr) (c at_ : Nat) (w : List Nat), s.ctr n = some x →
    x.draws.find? (fun d => d.1 == i) = some (i, c, at_) → s.ctrOp c n = some w → s.running = true → x.factor ≠ 0 →
    8 ≤ x.commits.length → (∀ y ∈ x.commits, y.1 ≠ i) → i ∉ x.marks → noRescue (s.core c) w = false →
    x.factor * median2 (x.commits.map Prod.snd) ≤ 2 * (max s.now t - at_) → ∃ v : State, exec (.rescueMark n i t) s = .next v ∧
      v.ctr n = some { x with marks := x.marks ++ [i] } ∧ v.cores = s.cores) ∧
  (∀ (s : State) (c : Fin 64) (t : Nat) (r : Run) (h : Halt), s.eng c 6 = some r → r.halt = some h →
    (s.coreLive c = true → (s.at t).repaired r h = true → ∃ v : State, exec (.streamResume c t) s = .next (v.engLoop engFuel c 6) ∧
      v.eng c 6 = some { r with halt := none, reqAt := max s.now t } ∧
      v.car.late.halt = s.car.late.halt + (max s.now t - h.counted) ∧ v.dram = s.dram) ∧
    ((s.at t).repaired r h = false → s.policy 0x0031 * 1000000 < max s.now t - h.since →
      exec (.repairLimit c t) s = .next ((s.at t).raiseKnell 0x03 h.fault 1 c)))

/-- A reset of the port selects IDCODE and gives the pins back. Shifting an instruction puts out what the register captures
and selects it, an undefined code selecting BYPASS; the pins are driven exactly for the EXTEST instructions. In BYPASS the
bits shifted in come out one later, after a 0; in IDCODE the first 32 bits out are the identification word, low bit first.
(Codes and lengths that the spec leaves to IEEE 1149.1 files are opaque, log 17.) -/
def Obligations.TestPortShifts : Prop :=
  ∀ s : State,
    exec (.testAccessPort .reset) s = .next { s with tap := { s.tap with ir := .idcode, extest := false, pins := [] } } ∧
    (∀ code, ∃ w : State, exec (.testAccessPort (.shiftIr code)) s = .next w ∧ w.out = s.out ++ [.tdo Config.tapIrCapture] ∧
      (Config.tapCode code = none → w.tap.ir = .bypass ∧ w.tap.extest = false ∧ w.tap.pins = []) ∧
      (∀ i, Config.tapCode code = some i → w.tap.ir = i ∧ w.tap.extest = takesPins i ∧
        w.tap.pins = if takesPins i then s.tap.dr else [])) ∧
    (∀ b bs, s.tap.ir = .bypass → exec (.testAccessPort (.shiftDr (b :: bs))) s =
      .next { s with out := s.out ++ [.tdo (false :: (b :: bs).dropLast)] }) ∧
    (∀ bs, s.tap.ir = .idcode → bs.length = 32 → exec (.testAccessPort (.shiftDr bs)) s =
      .next { s with out := s.out ++ [.tdo ((List.range 32).map (fun i => tapIdWord.testBit i))] }) ∧
    (∀ bs, s.tap.ir ≠ .idcode → s.tap.ir ≠ .bypass → ∃ w : State, exec (.testAccessPort (.shiftDr bs)) s = .next w ∧
      w.tap.pins = (if takesPins s.tap.ir then w.tap.dr else s.tap.pins) ∧ w.tap.ir = s.tap.ir ∧
      w.tap.dr = (s.tapCapture ++ bs).drop bs.length)
end

