-- ==== Sys2Proof/Laws/Table.lean ====
section
/-!
SUPPORT. Laws of the sparse tables and byte memories: what a read after a write gives, and that every write keeps the
canonical form.
-/
namespace Sys2Proof.Machine

variable {α : Type} [DecidableEq α] {d : α}
set_option linter.unusedSectionVars false

/-- A table whose head is `(j, v)` is canonical exactly when `v` is no default, every later key is greater and the rest is. -/
theorem Table.wf_cons {j : Nat} {v : α} {t : Table α} :
    Table.wf d ((j, v) :: t) = true ↔ v ≠ d ∧ (∀ p ∈ t, j < p.1) ∧ Table.wf d t = true := by
  induction t generalizing j v with
  | nil => simp [Table.wf]
  | cons p t ih =>
    obtain ⟨k, w⟩ := p
    rw [Table.wf, Bool.and_eq_true, Bool.and_eq_true, ih]
    simp only [List.mem_cons, forall_eq_or_imp, Bool.not_eq_true', decide_eq_false_iff_not, decide_eq_true_eq]
    exact ⟨fun ⟨⟨a, b⟩, c, e, f⟩ => ⟨a, ⟨b, fun p hp => Nat.lt_trans b (e p hp)⟩, c, e, f⟩,
      fun ⟨a, ⟨b, _⟩, c, e, f⟩ => ⟨⟨a, b⟩, c, e, f⟩⟩

theorem Table.mem_put {t : Table α} {k : Nat} {v : α} {p : Nat × α} (h : p ∈ Table.put t k v) : p = (k, v) ∨ p ∈ t := by
  induction t with
  | nil => simpa [Table.put] using h
  | cons q t ih =>
    simp only [Table.put] at h
    split at h
    · simpa using h
    · split at h
      · simp only [List.mem_cons] at h ⊢
        rcases h with h | h
        · exact .inl h
        · exact .inr (.inr h)
      · simp only [List.mem_cons] at h ⊢
        rcases h with h | h
        · exact .inr (.inl h)
        · rcases ih h with h | h
          · exact .inl h
          · exact .inr (.inr h)

theorem Table.mem_del {t : Table α} {k : Nat} {p : Nat × α} (h : p ∈ Table.del t k) : p ∈ t := by
  induction t with
  | nil => simp [Table.del] at h
  | cons q t ih =>
    simp only [Table.del] at h
    split at h
    · exact List.mem_cons_of_mem _ (ih h)
    · simp at h ⊢; rcases h with h | h
      · exact .inl h
      · exact .inr (ih h)

theorem Table.wf_put {t : Table α} {k : Nat} {v : α} (hv : v ≠ d) (h : Table.wf d t = true) :
    Table.wf d (Table.put t k v) = true := by
  induction t with
  | nil => simpa [Table.put, Table.wf] using hv
  | cons q t ih =>
    obtain ⟨j, w⟩ := q
    have hc := Table.wf_cons.1 h
    simp only [Table.put]
    split
    · next hk => exact Table.wf_cons.2 ⟨hv, by simpa using ⟨hk, fun a b hp => Nat.lt_trans hk (hc.2.1 (a, b) hp)⟩, h⟩
    · split
      · next hk => subst hk; exact Table.wf_cons.2 ⟨hv, hc.2.1, hc.2.2⟩
      · next h1 h2 =>
        refine Table.wf_cons.2 ⟨hc.1, fun p hp => ?_, ih hc.2.2⟩
        rcases Table.mem_put hp with rfl | hp
        · show j < k; omega
        · exact hc.2.1 p hp

theorem Table.wf_del {t : Table α} {k : Nat} (h : Table.wf d t = true) : Table.wf d (Table.del t k) = true := by
  induction t with
  | nil => rfl
  | cons q t ih =>
    obtain ⟨j, w⟩ := q
    have hc := Table.wf_cons.1 h
    simp only [Table.del]
    split
    · exact ih hc.2.2
    · exact Table.wf_cons.2 ⟨hc.1, fun p hp => hc.2.1 p (Table.mem_del hp), ih hc.2.2⟩

/-- Writing keeps the canonical form, whether or not the default is written. -/
theorem Table.wf_set {t : Table α} (k : Nat) (v : α) (h : Table.wf d t = true) : Table.wf d (Table.set d t k v) = true := by
  unfold Table.set
  split
  · exact Table.wf_del h
  · next hv => exact Table.wf_put hv h

theorem Table.get_below {t : Table α} {k : Nat} (h : ∀ p ∈ t, k < p.1) : Table.get d t k = d := by
  induction t with
  | nil => rfl
  | cons q t ih =>
    obtain ⟨j, w⟩ := q
    have := h (j, w) (by simp)
    simp only [Table.get]
    rw [if_neg (by simp at this; omega)]
    exact ih (fun p hp => h p (List.mem_cons_of_mem _ hp))

theorem Table.get_put (t : Table α) (k j : Nat) (v : α) :
    Table.get d (Table.put t k v) j = if j = k then v else Table.get d t j := by
  induction t with
  | nil =>
    by_cases h : j = k
    · simp [Table.put, Table.get, h]
    · simp [Table.put, Table.get, h, Ne.symm h]
  | cons q t ih =>
    obtain ⟨i, w⟩ := q
    simp only [Table.put]
    split
    · by_cases h : j = k
      · simp [Table.get, h]
      · simp [Table.get, h, Ne.symm h]
    · split
      · next h =>
        subst h
        by_cases h : j = k
        · simp [Table.get, h]
        · simp [Table.get, h, Ne.symm h]
      · by_cases h : i = j
        · subst h; rw [if_neg (by omega)]; simp [Table.get]
        · simp only [Table.get, h, if_false]; exact ih

theorem Table.get_del (t : Table α) (k j : Nat) : Table.get d (Table.del t k) j = if j = k then d else Table.get d t j := by
  induction t with
  | nil => simp [Table.del, Table.get]
  | cons q t ih =>
    obtain ⟨i, w⟩ := q
    simp only [Table.del]
    split
    · next hk =>
      subst hk
      rw [ih]
      by_cases hj : j = i
      · simp [hj]
      · simp [Table.get, hj, Ne.symm hj]
    · next hk =>
      by_cases hi : i = j
      · subst hi; rw [if_neg hk]; simp [Table.get]
      · simp only [Table.get, hi, if_false]; exact ih

/-- A read after a write: the value written at its key, what stood there at every other. -/
@[simp] theorem Table.get_set (t : Table α) (k j : Nat) (v : α) :
    Table.get d (Table.set d t k v) j = if j = k then v else Table.get d t j := by
  unfold Table.set
  split
  · next hv => subst hv; exact Table.get_del t k j
  · exact Table.get_put t k j v

/-- An update applies its function at its key and nowhere else. -/
@[simp] theorem Table.get_upd (t : Table α) (k j : Nat) (f : α → α) :
    Table.get d (Table.upd d t k f) j = if j = k then f (Table.get d t k) else Table.get d t j := Table.get_set _ _ _ _

theorem Table.find_put (t : Table α) (k j : Nat) (v : α) :
    Table.find (Table.put t k v) j = if j = k then some v else Table.find t j := by
  induction t with
  | nil =>
    by_cases h : j = k
    · simp [Table.put, Table.find, h]
    · simp [Table.put, Table.find, h, Ne.symm h]
  | cons q t ih =>
    obtain ⟨i, w⟩ := q
    simp only [Table.put]
    split
    · by_cases h : j = k
      · simp [Table.find, h]
      · simp [Table.find, h, Ne.symm h]
    · split
      · next h =>
        subst h
        by_cases h : j = k
        · simp [Table.find, h]
        · simp [Table.find, h, Ne.symm h]
      · by_cases h : i = j
        · subst h; rw [if_neg (by omega)]; simp [Table.find]
        · simp only [Table.find, h, if_false]; exact ih

/-- Canonical tables are equal when they read the same everywhere: equal contents are equal data. -/
theorem Table.ext_get {t u : Table α} (ht : Table.wf d t = true) (hu : Table.wf d u = true)
    (h : ∀ k, Table.get d t k = Table.get d u k) : t = u := by
  induction t generalizing u with
  | nil =>
    cases u with
    | nil => rfl
    | cons q u =>
      have := h q.1
      simp [Table.get] at this
      exact absurd this.symm (Table.wf_cons.1 hu).1
  | cons p t ih =>
    obtain ⟨j, v⟩ := p
    have hc := Table.wf_cons.1 ht
    cases u with
    | nil => have := h j; simp [Table.get] at this; exact absurd this hc.1
    | cons q u =>
      obtain ⟨k, w⟩ := q
      have hd := Table.wf_cons.1 hu
      have hjk : j = k := by
        rcases Nat.lt_trichotomy j k with hlt | he | hlt
        · have := h j
          rw [Table.get_below (t := (k, w) :: u) (by simpa using ⟨hlt, fun a b hp => Nat.lt_trans hlt (hd.2.1 (a, b) hp)⟩)] at this
          simp [Table.get] at this; exact absurd this hc.1
        · exact he
        · have := h k
          rw [Table.get_below (t := (j, v) :: t) (by simpa using ⟨hlt, fun a b hp => Nat.lt_trans hlt (hc.2.1 (a, b) hp)⟩)] at this
          simp [Table.get] at this; exact absurd this.symm hd.1
      subst hjk
      have hv : v = w := by have := h j; simpa [Table.get] using this
      subst hv
      congr 1
      refine ih hc.2.2 hd.2.2 (fun k => ?_)
      have := h k
      by_cases hk : j = k
      · subst hk; rw [Table.get_below hc.2.1, Table.get_below hd.2.1]
      · simpa [Table.get, hk] using this

theorem Table.set_set {t : Table α} (h : Table.wf d t = true) (k : Nat) (v w : α) :
    Table.set d (Table.set d t k v) k w = Table.set d t k w := by
  refine Table.ext_get (d := d) (Table.wf_set _ _ (Table.wf_set _ _ h)) (Table.wf_set _ _ h) (fun j => ?_)
  rw [Table.get_set, Table.get_set, Table.get_set]
  split <;> rfl

/-- Writing back what a key holds changes nothing. -/
theorem Table.set_get {t : Table α} (h : Table.wf d t = true) (k : Nat) : Table.set d t k (Table.get d t k) = t := by
  refine Table.ext_get (d := d) (Table.wf_set _ _ h) h (fun j => ?_)
  rw [Table.get_set]; split
  · next e => rw [e]
  · rfl

/-! ## Byte memories -/

theorem Mem.wf_write {m : Mem} (a : Nat) (v : Byte) (h : m.wf = true) : (m.write a v).wf = true := Table.wf_set _ _ h

theorem Mem.wf_writeN {m : Mem} (a : Nat) (bs : List Byte) (h : m.wf = true) : (m.writeN a bs).wf = true := by
  induction bs generalizing m a with
  | nil => exact h
  | cons b bs ih => exact ih _ (Mem.wf_write _ _ h)

@[simp] theorem Mem.read_write (m : Mem) (a x : Nat) (v : Byte) :
    (m.write a v).read x = if x = a then v else m.read x := Table.get_set m a x v

/-- A byte outside the range written reads as before. -/
theorem Mem.read_writeN_other (m : Mem) (a x : Nat) (bs : List Byte) (hx : x < a ∨ a + bs.length ≤ x) :
    (m.writeN a bs).read x = m.read x := by
  induction bs generalizing m a with
  | nil => rfl
  | cons b bs ih =>
    simp only [List.length_cons] at hx
    rw [Mem.writeN, ih _ _ (by omega), Mem.read_write, if_neg (by omega)]

/-- A byte of the range written reads as written. -/
theorem Mem.read_writeN (m : Mem) (a i : Nat) (bs : List Byte) (hi : i < bs.length) :
    (m.writeN a bs).read (a + i) = bs[i] := by
  induction bs generalizing m a i with
  | nil => simp at hi
  | cons b bs ih =>
    rw [Mem.writeN]
    cases i with
    | zero => rw [Mem.read_writeN_other _ _ _ _ (by omega), Mem.read_write]; simp
    | succ i =>
      have := ih (m.write a b) (a + 1) i (by simpa using hi)
      rw [show a + (i + 1) = a + 1 + i by omega, this]; rfl

@[simp] theorem Mem.length_readN (m : Mem) (a n : Nat) : (m.readN a n).length = n := by
  induction n generalizing a with
  | zero => rfl
  | succ n ih => simp [Mem.readN, ih]

theorem Mem.getElem_readN (m : Mem) (a n i : Nat) (h : i < (m.readN a n).length) : (m.readN a n)[i] = m.read (a + i) := by
  induction n generalizing a i with
  | zero => simp at h
  | succ n ih =>
    cases i with
    | zero => rfl
    | succ i => simp only [Mem.readN, List.getElem_cons_succ]; rw [ih]; congr 1; omega

/-- The bytes written are the bytes read. -/
theorem Mem.readN_writeN (m : Mem) (a : Nat) (bs : List Byte) : (m.writeN a bs).readN a bs.length = bs := by
  apply List.ext_getElem
  · simp
  · intro i h1 h2
    rw [Mem.getElem_readN]; exact Mem.read_writeN m a i bs h2

end Sys2Proof.Machine
end

