-- ==== Sys2Proof/Laws/Memory.lean ====
section
/-!
SUPPORT. Every operation over a byte memory keeps the canonical form: words, cells with poison, and the copies of a page.
-/
namespace Sys2Proof.Machine

/-- The canonical form said of the whole list. -/
theorem Table.wf_iff {α : Type} [DecidableEq α] {d : α} {t : Table α} :
    Table.wf d t = true ↔ (∀ p ∈ t, p.2 ≠ d) ∧ t.Pairwise (fun p q => p.1 < q.1) := by
  induction t with
  | nil => simp [Table.wf]
  | cons p t ih =>
    obtain ⟨j, v⟩ := p
    rw [Table.wf_cons, ih, List.pairwise_cons]
    simp only [List.mem_cons, forall_eq_or_imp]
    exact ⟨fun ⟨a, b, c, e⟩ => ⟨⟨a, c⟩, b, e⟩, fun ⟨⟨a, c⟩, b, e⟩ => ⟨a, b, c, e⟩⟩

theorem Mem.wf_nil : Mem.wf [] = true := rfl

theorem Mem.wf_writeLe {m : Mem} (a n v : Nat) (h : m.wf = true) : (m.writeLe a n v).wf = true := Mem.wf_writeN a _ h

/-- A write that marks poison keeps the form of the bytes. -/
theorem pwrite_wf (unit : Nat) {m : Mem} (p : NatSet) (cs : List Cell) (h : m.wf = true) : (pwrite unit m p cs).1.wf = true := by
  simp only [pwrite]
  induction cs generalizing m with
  | nil => exact h
  | cons c cs ih => exact ih (Mem.wf_write c.1 c.2.1 h)

/-- A stretch of a canonical memory, by offset, is canonical. -/
theorem Mem.wf_slice {m : Mem} (a n : Nat) (h : m.wf = true) : (m.slice a n).wf = true := by
  obtain ⟨hd, hp⟩ := Table.wf_iff.1 h
  refine Table.wf_iff.2 ⟨?_, ?_⟩
  · simp only [Mem.slice, List.mem_map, List.mem_filter, Bool.and_eq_true, decide_eq_true_eq]
    rintro _ ⟨e, ⟨he, _⟩, rfl⟩
    exact hd e he
  · rw [Mem.slice, List.pairwise_map]
    refine (hp.filter _).imp_of_mem ?_
    intro x y hx hy hxy
    simp only [List.mem_filter, Bool.and_eq_true, decide_eq_true_eq] at hx hy
    show x.1 - a < y.1 - a
    omega

/-- Replacing a stretch of a canonical memory by a canonical one gives a canonical memory. -/
theorem Mem.wf_blit {m src : Mem} (a n : Nat) (h : m.wf = true) (hs : src.wf = true) : (m.blit a n src).wf = true := by
  obtain ⟨hd, hp⟩ := Table.wf_iff.1 h
  obtain ⟨_, hq⟩ := Table.wf_iff.1 hs
  have low : ∀ x ∈ m.takeWhile (fun e => decide (e.1 < a)), x.1 < a := fun x hx => by
    simpa using List.all_eq_true.1 List.all_takeWhile x hx
  refine Table.wf_iff.2 ⟨?_, ?_⟩
  · intro p hp'
    simp only [Mem.blit, List.mem_append, List.mem_map, List.mem_filter, Bool.and_eq_true, decide_eq_true_eq, bne_iff_ne] at hp'
    rcases hp' with (hx | ⟨e, ⟨_, _, hv⟩, rfl⟩) | ⟨hx, _⟩
    · exact hd p ((List.takeWhile_sublist _).subset hx)
    · exact hv
    · exact hd p hx
  · rw [Mem.blit, List.pairwise_append, List.pairwise_append, List.pairwise_map]
    refine ⟨⟨hp.sublist (List.takeWhile_sublist _), (hq.filter _).imp_of_mem ?_, ?_⟩, hp.filter _, ?_⟩
    · intro x y _ _ hxy
      show a + x.1 < a + y.1
      omega
    · intro x hx y hy
      have := low x hx
      simp only [List.mem_map, List.mem_filter] at hy
      obtain ⟨e, _, rfl⟩ := hy
      show x.1 < a + e.1
      omega
    · intro x hx y hy
      simp only [List.mem_filter, decide_eq_true_eq] at hy
      simp only [List.mem_append, List.mem_map, List.mem_filter, Bool.and_eq_true, decide_eq_true_eq] at hx
      rcases hx with hx | ⟨e, ⟨_, he, _⟩, rfl⟩
      · have := low x hx
        omega
      · show a + e.1 < y.1
        omega

/-! ## Reads -/

theorem Table.get_of_not_mem {α : Type} [DecidableEq α] {d : α} {t : Table α} {k : Nat} (h : ∀ p ∈ t, p.1 ≠ k) : Table.get d t k = d := by
  induction t with
  | nil => rfl
  | cons p t ih =>
    obtain ⟨j, v⟩ := p
    simp only [List.mem_cons, forall_eq_or_imp] at h
    rw [Table.get, if_neg h.1]
    exact ih h.2

theorem Table.get_append_left {α : Type} [DecidableEq α] {d : α} {t u : Table α} {k : Nat} (h : ∀ p ∈ t, p.1 ≠ k) :
    Table.get d (t ++ u) k = Table.get d u k := by
  induction t with
  | nil => rfl
  | cons p t ih =>
    obtain ⟨j, v⟩ := p
    simp only [List.mem_cons, forall_eq_or_imp] at h
    rw [List.cons_append, Table.get, if_neg h.1]
    exact ih h.2

theorem Table.get_append_right {α : Type} [DecidableEq α] {d : α} {t u : Table α} {k : Nat} (h : ∀ p ∈ u, p.1 ≠ k) :
    Table.get d (t ++ u) k = Table.get d t k := by
  induction t with
  | nil => exact Table.get_of_not_mem h
  | cons p t ih =>
    obtain ⟨j, v⟩ := p
    simp only [List.cons_append, Table.get, ih]

/-- Entries that a test on keys leaves out are the default, the others as they were. -/
theorem Table.get_filter {α : Type} [DecidableEq α] {d : α} (t : Table α) (f : Nat → Bool) (k : Nat) :
    Table.get d (t.filter (fun e => f e.1)) k = if f k then Table.get d t k else d := by
  induction t with
  | nil => simp [Table.get]
  | cons p t ih =>
    obtain ⟨j, v⟩ := p
    by_cases hj : j = k
    · subst hj
      by_cases hf : f j = true
      · simp [hf, Table.get]
      · simp only [Bool.not_eq_true] at hf
        simpa [List.filter_cons, hf] using ih
    · by_cases hf : f j = true
      · simpa [List.filter_cons, hf, Table.get, hj] using ih
      · simp only [Bool.not_eq_true] at hf
        simpa [List.filter_cons, hf, Table.get, hj] using ih

/-- A stretch of a memory reads as the memory does. -/
theorem Mem.read_slice (m : Mem) (a n i : Nat) : (m.slice a n).read i = if i < n then m.read (a + i) else Mem.unlisted := by
  unfold Mem.read Mem.slice
  induction m with
  | nil => simp [Table.get]
  | cons e m ih =>
    obtain ⟨j, v⟩ := e
    by_cases hj : a ≤ j ∧ j < a + n
    · rw [List.filter_cons, if_pos (by simpa using hj), List.map_cons, Table.get, Table.get, ih]
      by_cases h : j - a = i
      · rw [if_pos h, if_pos (by omega), if_pos (by omega)]
      · rw [if_neg h]
        split
        · rw [if_neg (by omega)]
        · rfl
    · rw [List.filter_cons, if_neg (by simpa using hj), ih]
      split
      · rw [Table.get, if_neg (by omega)]
      · rfl

theorem Mem.get_shift (a : Nat) (t : Mem) (x : Nat) :
    Table.get Mem.unlisted (t.map (fun e => (a + e.1, e.2))) x = if a ≤ x then Table.get Mem.unlisted t (x - a) else Mem.unlisted := by
  induction t with
  | nil => simp [Table.get]
  | cons e t ih =>
    obtain ⟨j, v⟩ := e
    rw [List.map_cons, Table.get, Table.get, ih]
    by_cases h : a + j = x
    · rw [if_pos h, if_pos (by omega), if_pos (by omega)]
    · rw [if_neg h]
      split
      · rw [if_neg (by omega)]
      · rfl

theorem Mem.takeWhile_below {m : Mem} (a : Nat) (h : m.Pairwise (fun p q => p.1 < q.1)) :
    m.takeWhile (fun e => decide (e.1 < a)) = m.filter (fun e => decide (e.1 < a)) := by
  induction m with
  | nil => rfl
  | cons e m ih =>
    obtain ⟨h1, h2⟩ := List.pairwise_cons.1 h
    by_cases he : e.1 < a
    · rw [List.takeWhile_cons, if_pos (by simpa using he), List.filter_cons, if_pos (by simpa using he), ih h2]
    · rw [List.takeWhile_cons, if_neg (by simpa using he), List.filter_cons, if_neg (by simpa using he), eq_comm,
        List.filter_eq_nil_iff]
      intro x hx
      have := h1 x hx
      simp only [decide_eq_true_eq]
      omega

/-- After a copy the stretch reads as its source, every other byte as before. -/
theorem Mem.read_blit {m src : Mem} (a n x : Nat) (h : m.wf = true) (hs : src.wf = true) :
    (m.blit a n src).read x = if a ≤ x ∧ x < a + n then src.read (x - a) else m.read x := by
  have hl : src.filter (fun e => decide (e.1 < n) && e.2 != Mem.unlisted) = src.filter (fun e => decide (e.1 < n)) :=
    List.filter_congr (fun e he => by simp [(Table.wf_iff.1 hs).1 e he])
  unfold Mem.read Mem.blit
  rw [hl, Mem.takeWhile_below a (Table.wf_iff.1 h).2]
  have hB := Mem.get_shift a (src.filter (fun e => decide (e.1 < n))) x
  rw [Table.get_filter src (fun k => decide (k < n))] at hB
  by_cases h1 : x < a
  · rw [List.append_assoc, Table.get_append_right, Table.get_filter m (fun k => decide (k < a))]
    · rw [if_pos (by simpa using h1), if_neg (by omega)]
    · simp only [List.mem_append, List.mem_map, List.mem_filter, decide_eq_true_eq]
      rintro p (⟨e, _, rfl⟩ | ⟨_, hp⟩)
      · show a + e.1 ≠ x
        omega
      · omega
  · by_cases h2 : x < a + n
    · rw [Table.get_append_right, Table.get_append_left, hB, if_pos (by omega), if_pos (by simp; omega), if_pos (by omega)]
      · simp only [List.mem_filter, decide_eq_true_eq]
        rintro p ⟨_, hp⟩
        omega
      · simp only [List.mem_filter, decide_eq_true_eq]
        rintro p ⟨_, hp⟩
        omega
    · rw [Table.get_append_left, Table.get_filter m (fun k => decide (a + n ≤ k)), if_pos (by simp; omega), if_neg (by omega)]
      simp only [List.mem_append, List.mem_map, List.mem_filter, decide_eq_true_eq]
      rintro p (⟨_, hp⟩ | ⟨e, ⟨_, he⟩, rfl⟩)
      · omega
      · show a + e.1 ≠ x
        omega

end Sys2Proof.Machine
end

