-- ==== Sys2Proof/Laws/State.lean ====
section
/-!
SUPPORT. What each named update leaves of every field of the state, and what reading back gives; all true by computation.
-/
namespace Sys2Proof.Machine

/-! ### setCore -/

@[simp] theorem State.setCore_pending (s : State) (c : Nat) (k : Core) : (s.setCore c k).pending = s.pending := rfl
@[simp] theorem State.setCore_now (s : State) (c : Nat) (k : Core) : (s.setCore c k).now = s.now := rfl
@[simp] theorem State.setCore_free (s : State) (c : Nat) (k : Core) : (s.setCore c k).free = s.free := rfl
@[simp] theorem State.setCore_out (s : State) (c : Nat) (k : Core) : (s.setCore c k).out = s.out := rfl
@[simp] theorem State.setCore_cp (s : State) (c : Nat) (k : Core) : (s.setCore c k).cp = s.cp := rfl
@[simp] theorem State.setCore_bar (s : State) (c : Nat) (k : Core) : (s.setCore c k).bar = s.bar := rfl
@[simp] theorem State.setCore_pcie (s : State) (c : Nat) (k : Core) : (s.setCore c k).pcie = s.pcie := rfl
@[simp] theorem State.setCore_hif (s : State) (c : Nat) (k : Core) : (s.setCore c k).hif = s.hif := rfl
@[simp] theorem State.setCore_i3c (s : State) (c : Nat) (k : Core) : (s.setCore c k).i3c = s.i3c := rfl
@[simp] theorem State.setCore_mb (s : State) (c : Nat) (k : Core) : (s.setCore c k).mb = s.mb := rfl
@[simp] theorem State.setCore_ev (s : State) (c : Nat) (k : Core) : (s.setCore c k).ev = s.ev := rfl
@[simp] theorem State.setCore_tele (s : State) (c : Nat) (k : Core) : (s.setCore c k).tele = s.tele := rfl
@[simp] theorem State.setCore_img (s : State) (c : Nat) (k : Core) : (s.setCore c k).img = s.img := rfl
@[simp] theorem State.setCore_pol (s : State) (c : Nat) (k : Core) : (s.setCore c k).pol = s.pol := rfl
@[simp] theorem State.setCore_sec (s : State) (c : Nat) (k : Core) : (s.setCore c k).sec = s.sec := rfl
@[simp] theorem State.setCore_pat (s : State) (c : Nat) (k : Core) : (s.setCore c k).pat = s.pat := rfl
@[simp] theorem State.setCore_rud (s : State) (c : Nat) (k : Core) : (s.setCore c k).rud = s.rud := rfl
@[simp] theorem State.setCore_cores (s : State) (c : Nat) (k : Core) : (s.setCore c k).cores = Table.set Core.init s.cores c k := rfl
@[simp] theorem State.setCore_fab (s : State) (c : Nat) (k : Core) : (s.setCore c k).fab = s.fab := rfl
@[simp] theorem State.setCore_kv (s : State) (c : Nat) (k : Core) : (s.setCore c k).kv = s.kv := rfl
@[simp] theorem State.setCore_ep (s : State) (c : Nat) (k : Core) : (s.setCore c k).ep = s.ep := rfl
@[simp] theorem State.setCore_lead (s : State) (c : Nat) (k : Core) : (s.setCore c k).lead = s.lead := rfl
@[simp] theorem State.setCore_car (s : State) (c : Nat) (k : Core) : (s.setCore c k).car = s.car := rfl
@[simp] theorem State.setCore_rt (s : State) (c : Nat) (k : Core) : (s.setCore c k).rt = s.rt := rfl
@[simp] theorem State.setCore_ports (s : State) (c : Nat) (k : Core) : (s.setCore c k).ports = s.ports := rfl
@[simp] theorem State.setCore_dram (s : State) (c : Nat) (k : Core) : (s.setCore c k).dram = s.dram := rfl
@[simp] theorem State.setCore_beat (s : State) (c : Nat) (k : Core) : (s.setCore c k).beat = s.beat := rfl
@[simp] theorem State.setCore_sup (s : State) (c : Nat) (k : Core) : (s.setCore c k).sup = s.sup := rfl
@[simp] theorem State.setCore_pwr (s : State) (c : Nat) (k : Core) : (s.setCore c k).pwr = s.pwr := rfl
@[simp] theorem State.setCore_twin (s : State) (c : Nat) (k : Core) : (s.setCore c k).twin = s.twin := rfl
@[simp] theorem State.setCore_tap (s : State) (c : Nat) (k : Core) : (s.setCore c k).tap = s.tap := rfl
@[simp] theorem State.setCore_host (s : State) (c : Nat) (k : Core) : (s.setCore c k).host = s.host := rfl

/-! ### updCore -/

@[simp] theorem State.updCore_pending (s : State) (c : Nat) (f : Core → Core) : (s.updCore c f).pending = s.pending := rfl
@[simp] theorem State.updCore_now (s : State) (c : Nat) (f : Core → Core) : (s.updCore c f).now = s.now := rfl
@[simp] theorem State.updCore_free (s : State) (c : Nat) (f : Core → Core) : (s.updCore c f).free = s.free := rfl
@[simp] theorem State.updCore_out (s : State) (c : Nat) (f : Core → Core) : (s.updCore c f).out = s.out := rfl
@[simp] theorem State.updCore_cp (s : State) (c : Nat) (f : Core → Core) : (s.updCore c f).cp = s.cp := rfl
@[simp] theorem State.updCore_bar (s : State) (c : Nat) (f : Core → Core) : (s.updCore c f).bar = s.bar := rfl
@[simp] theorem State.updCore_pcie (s : State) (c : Nat) (f : Core → Core) : (s.updCore c f).pcie = s.pcie := rfl
@[simp] theorem State.updCore_hif (s : State) (c : Nat) (f : Core → Core) : (s.updCore c f).hif = s.hif := rfl
@[simp] theorem State.updCore_i3c (s : State) (c : Nat) (f : Core → Core) : (s.updCore c f).i3c = s.i3c := rfl
@[simp] theorem State.updCore_mb (s : State) (c : Nat) (f : Core → Core) : (s.updCore c f).mb = s.mb := rfl
@[simp] theorem State.updCore_ev (s : State) (c : Nat) (f : Core → Core) : (s.updCore c f).ev = s.ev := rfl
@[simp] theorem State.updCore_tele (s : State) (c : Nat) (f : Core → Core) : (s.updCore c f).tele = s.tele := rfl
@[simp] theorem State.updCore_img (s : State) (c : Nat) (f : Core → Core) : (s.updCore c f).img = s.img := rfl
@[simp] theorem State.updCore_pol (s : State) (c : Nat) (f : Core → Core) : (s.updCore c f).pol = s.pol := rfl
@[simp] theorem State.updCore_sec (s : State) (c : Nat) (f : Core → Core) : (s.updCore c f).sec = s.sec := rfl
@[simp] theorem State.updCore_pat (s : State) (c : Nat) (f : Core → Core) : (s.updCore c f).pat = s.pat := rfl
@[simp] theorem State.updCore_rud (s : State) (c : Nat) (f : Core → Core) : (s.updCore c f).rud = s.rud := rfl
@[simp] theorem State.updCore_cores (s : State) (c : Nat) (f : Core → Core) : (s.updCore c f).cores = Table.set Core.init s.cores c (f (s.core c)) := rfl
@[simp] theorem State.updCore_fab (s : State) (c : Nat) (f : Core → Core) : (s.updCore c f).fab = s.fab := rfl
@[simp] theorem State.updCore_kv (s : State) (c : Nat) (f : Core → Core) : (s.updCore c f).kv = s.kv := rfl
@[simp] theorem State.updCore_ep (s : State) (c : Nat) (f : Core → Core) : (s.updCore c f).ep = s.ep := rfl
@[simp] theorem State.updCore_lead (s : State) (c : Nat) (f : Core → Core) : (s.updCore c f).lead = s.lead := rfl
@[simp] theorem State.updCore_car (s : State) (c : Nat) (f : Core → Core) : (s.updCore c f).car = s.car := rfl
@[simp] theorem State.updCore_rt (s : State) (c : Nat) (f : Core → Core) : (s.updCore c f).rt = s.rt := rfl
@[simp] theorem State.updCore_ports (s : State) (c : Nat) (f : Core → Core) : (s.updCore c f).ports = s.ports := rfl
@[simp] theorem State.updCore_dram (s : State) (c : Nat) (f : Core → Core) : (s.updCore c f).dram = s.dram := rfl
@[simp] theorem State.updCore_beat (s : State) (c : Nat) (f : Core → Core) : (s.updCore c f).beat = s.beat := rfl
@[simp] theorem State.updCore_sup (s : State) (c : Nat) (f : Core → Core) : (s.updCore c f).sup = s.sup := rfl
@[simp] theorem State.updCore_pwr (s : State) (c : Nat) (f : Core → Core) : (s.updCore c f).pwr = s.pwr := rfl
@[simp] theorem State.updCore_twin (s : State) (c : Nat) (f : Core → Core) : (s.updCore c f).twin = s.twin := rfl
@[simp] theorem State.updCore_tap (s : State) (c : Nat) (f : Core → Core) : (s.updCore c f).tap = s.tap := rfl
@[simp] theorem State.updCore_host (s : State) (c : Nat) (f : Core → Core) : (s.updCore c f).host = s.host := rfl

/-! ### setPort -/

@[simp] theorem State.setPort_pending (s : State) (p : Port) (x : PortS) : (s.setPort p x).pending = s.pending := rfl
@[simp] theorem State.setPort_now (s : State) (p : Port) (x : PortS) : (s.setPort p x).now = s.now := rfl
@[simp] theorem State.setPort_free (s : State) (p : Port) (x : PortS) : (s.setPort p x).free = s.free := rfl
@[simp] theorem State.setPort_out (s : State) (p : Port) (x : PortS) : (s.setPort p x).out = s.out := rfl
@[simp] theorem State.setPort_cp (s : State) (p : Port) (x : PortS) : (s.setPort p x).cp = s.cp := rfl
@[simp] theorem State.setPort_bar (s : State) (p : Port) (x : PortS) : (s.setPort p x).bar = s.bar := rfl
@[simp] theorem State.setPort_pcie (s : State) (p : Port) (x : PortS) : (s.setPort p x).pcie = s.pcie := rfl
@[simp] theorem State.setPort_hif (s : State) (p : Port) (x : PortS) : (s.setPort p x).hif = s.hif := rfl
@[simp] theorem State.setPort_i3c (s : State) (p : Port) (x : PortS) : (s.setPort p x).i3c = s.i3c := rfl
@[simp] theorem State.setPort_mb (s : State) (p : Port) (x : PortS) : (s.setPort p x).mb = s.mb := rfl
@[simp] theorem State.setPort_ev (s : State) (p : Port) (x : PortS) : (s.setPort p x).ev = s.ev := rfl
@[simp] theorem State.setPort_tele (s : State) (p : Port) (x : PortS) : (s.setPort p x).tele = s.tele := rfl
@[simp] theorem State.setPort_img (s : State) (p : Port) (x : PortS) : (s.setPort p x).img = s.img := rfl
@[simp] theorem State.setPort_pol (s : State) (p : Port) (x : PortS) : (s.setPort p x).pol = s.pol := rfl
@[simp] theorem State.setPort_sec (s : State) (p : Port) (x : PortS) : (s.setPort p x).sec = s.sec := rfl
@[simp] theorem State.setPort_pat (s : State) (p : Port) (x : PortS) : (s.setPort p x).pat = s.pat := rfl
@[simp] theorem State.setPort_rud (s : State) (p : Port) (x : PortS) : (s.setPort p x).rud = s.rud := rfl
@[simp] theorem State.setPort_cores (s : State) (p : Port) (x : PortS) : (s.setPort p x).cores = s.cores := rfl
@[simp] theorem State.setPort_fab (s : State) (p : Port) (x : PortS) : (s.setPort p x).fab = s.fab := rfl
@[simp] theorem State.setPort_kv (s : State) (p : Port) (x : PortS) : (s.setPort p x).kv = s.kv := rfl
@[simp] theorem State.setPort_ep (s : State) (p : Port) (x : PortS) : (s.setPort p x).ep = s.ep := rfl
@[simp] theorem State.setPort_lead (s : State) (p : Port) (x : PortS) : (s.setPort p x).lead = s.lead := rfl
@[simp] theorem State.setPort_car (s : State) (p : Port) (x : PortS) : (s.setPort p x).car = s.car := rfl
@[simp] theorem State.setPort_rt (s : State) (p : Port) (x : PortS) : (s.setPort p x).rt = s.rt := rfl
@[simp] theorem State.setPort_ports (s : State) (p : Port) (x : PortS) : (s.setPort p x).ports = Table.put s.ports (Port.idx p) x := rfl
@[simp] theorem State.setPort_dram (s : State) (p : Port) (x : PortS) : (s.setPort p x).dram = s.dram := rfl
@[simp] theorem State.setPort_beat (s : State) (p : Port) (x : PortS) : (s.setPort p x).beat = s.beat := rfl
@[simp] theorem State.setPort_sup (s : State) (p : Port) (x : PortS) : (s.setPort p x).sup = s.sup := rfl
@[simp] theorem State.setPort_pwr (s : State) (p : Port) (x : PortS) : (s.setPort p x).pwr = s.pwr := rfl
@[simp] theorem State.setPort_twin (s : State) (p : Port) (x : PortS) : (s.setPort p x).twin = s.twin := rfl
@[simp] theorem State.setPort_tap (s : State) (p : Port) (x : PortS) : (s.setPort p x).tap = s.tap := rfl
@[simp] theorem State.setPort_host (s : State) (p : Port) (x : PortS) : (s.setPort p x).host = s.host := rfl

/-! ### updPort -/

@[simp] theorem State.updPort_pending (s : State) (p : Port) (f : PortS → PortS) : (s.updPort p f).pending = s.pending := rfl
@[simp] theorem State.updPort_now (s : State) (p : Port) (f : PortS → PortS) : (s.updPort p f).now = s.now := rfl
@[simp] theorem State.updPort_free (s : State) (p : Port) (f : PortS → PortS) : (s.updPort p f).free = s.free := rfl
@[simp] theorem State.updPort_out (s : State) (p : Port) (f : PortS → PortS) : (s.updPort p f).out = s.out := rfl
@[simp] theorem State.updPort_cp (s : State) (p : Port) (f : PortS → PortS) : (s.updPort p f).cp = s.cp := rfl
@[simp] theorem State.updPort_bar (s : State) (p : Port) (f : PortS → PortS) : (s.updPort p f).bar = s.bar := rfl
@[simp] theorem State.updPort_pcie (s : State) (p : Port) (f : PortS → PortS) : (s.updPort p f).pcie = s.pcie := rfl
@[simp] theorem State.updPort_hif (s : State) (p : Port) (f : PortS → PortS) : (s.updPort p f).hif = s.hif := rfl
@[simp] theorem State.updPort_i3c (s : State) (p : Port) (f : PortS → PortS) : (s.updPort p f).i3c = s.i3c := rfl
@[simp] theorem State.updPort_mb (s : State) (p : Port) (f : PortS → PortS) : (s.updPort p f).mb = s.mb := rfl
@[simp] theorem State.updPort_ev (s : State) (p : Port) (f : PortS → PortS) : (s.updPort p f).ev = s.ev := rfl
@[simp] theorem State.updPort_tele (s : State) (p : Port) (f : PortS → PortS) : (s.updPort p f).tele = s.tele := rfl
@[simp] theorem State.updPort_img (s : State) (p : Port) (f : PortS → PortS) : (s.updPort p f).img = s.img := rfl
@[simp] theorem State.updPort_pol (s : State) (p : Port) (f : PortS → PortS) : (s.updPort p f).pol = s.pol := rfl
@[simp] theorem State.updPort_sec (s : State) (p : Port) (f : PortS → PortS) : (s.updPort p f).sec = s.sec := rfl
@[simp] theorem State.updPort_pat (s : State) (p : Port) (f : PortS → PortS) : (s.updPort p f).pat = s.pat := rfl
@[simp] theorem State.updPort_rud (s : State) (p : Port) (f : PortS → PortS) : (s.updPort p f).rud = s.rud := rfl
@[simp] theorem State.updPort_cores (s : State) (p : Port) (f : PortS → PortS) : (s.updPort p f).cores = s.cores := rfl
@[simp] theorem State.updPort_fab (s : State) (p : Port) (f : PortS → PortS) : (s.updPort p f).fab = s.fab := rfl
@[simp] theorem State.updPort_kv (s : State) (p : Port) (f : PortS → PortS) : (s.updPort p f).kv = s.kv := rfl
@[simp] theorem State.updPort_ep (s : State) (p : Port) (f : PortS → PortS) : (s.updPort p f).ep = s.ep := rfl
@[simp] theorem State.updPort_lead (s : State) (p : Port) (f : PortS → PortS) : (s.updPort p f).lead = s.lead := rfl
@[simp] theorem State.updPort_car (s : State) (p : Port) (f : PortS → PortS) : (s.updPort p f).car = s.car := rfl
@[simp] theorem State.updPort_rt (s : State) (p : Port) (f : PortS → PortS) : (s.updPort p f).rt = s.rt := rfl
@[simp] theorem State.updPort_ports (s : State) (p : Port) (f : PortS → PortS) : (s.updPort p f).ports = Table.put s.ports (Port.idx p) (f (s.port p)) := rfl
@[simp] theorem State.updPort_dram (s : State) (p : Port) (f : PortS → PortS) : (s.updPort p f).dram = s.dram := rfl
@[simp] theorem State.updPort_beat (s : State) (p : Port) (f : PortS → PortS) : (s.updPort p f).beat = s.beat := rfl
@[simp] theorem State.updPort_sup (s : State) (p : Port) (f : PortS → PortS) : (s.updPort p f).sup = s.sup := rfl
@[simp] theorem State.updPort_pwr (s : State) (p : Port) (f : PortS → PortS) : (s.updPort p f).pwr = s.pwr := rfl
@[simp] theorem State.updPort_twin (s : State) (p : Port) (f : PortS → PortS) : (s.updPort p f).twin = s.twin := rfl
@[simp] theorem State.updPort_tap (s : State) (p : Port) (f : PortS → PortS) : (s.updPort p f).tap = s.tap := rfl
@[simp] theorem State.updPort_host (s : State) (p : Port) (f : PortS → PortS) : (s.updPort p f).host = s.host := rfl

/-! ### setBox -/

@[simp] theorem State.setBox_pending (s : State) (n : Nat) (b : Mbox) : (s.setBox n b).pending = s.pending := rfl
@[simp] theorem State.setBox_now (s : State) (n : Nat) (b : Mbox) : (s.setBox n b).now = s.now := rfl
@[simp] theorem State.setBox_free (s : State) (n : Nat) (b : Mbox) : (s.setBox n b).free = s.free := rfl
@[simp] theorem State.setBox_out (s : State) (n : Nat) (b : Mbox) : (s.setBox n b).out = s.out := rfl
@[simp] theorem State.setBox_cp (s : State) (n : Nat) (b : Mbox) : (s.setBox n b).cp = s.cp := rfl
@[simp] theorem State.setBox_bar (s : State) (n : Nat) (b : Mbox) : (s.setBox n b).bar = s.bar := rfl
@[simp] theorem State.setBox_pcie (s : State) (n : Nat) (b : Mbox) : (s.setBox n b).pcie = s.pcie := rfl
@[simp] theorem State.setBox_hif (s : State) (n : Nat) (b : Mbox) : (s.setBox n b).hif = s.hif := rfl
@[simp] theorem State.setBox_i3c (s : State) (n : Nat) (b : Mbox) : (s.setBox n b).i3c = s.i3c := rfl
@[simp] theorem State.setBox_mb (s : State) (n : Nat) (b : Mbox) : (s.setBox n b).mb = { s.mb with box := Table.set Mbox.init s.mb.box n b } := rfl
@[simp] theorem State.setBox_ev (s : State) (n : Nat) (b : Mbox) : (s.setBox n b).ev = s.ev := rfl
@[simp] theorem State.setBox_tele (s : State) (n : Nat) (b : Mbox) : (s.setBox n b).tele = s.tele := rfl
@[simp] theorem State.setBox_img (s : State) (n : Nat) (b : Mbox) : (s.setBox n b).img = s.img := rfl
@[simp] theorem State.setBox_pol (s : State) (n : Nat) (b : Mbox) : (s.setBox n b).pol = s.pol := rfl
@[simp] theorem State.setBox_sec (s : State) (n : Nat) (b : Mbox) : (s.setBox n b).sec = s.sec := rfl
@[simp] theorem State.setBox_pat (s : State) (n : Nat) (b : Mbox) : (s.setBox n b).pat = s.pat := rfl
@[simp] theorem State.setBox_rud (s : State) (n : Nat) (b : Mbox) : (s.setBox n b).rud = s.rud := rfl
@[simp] theorem State.setBox_cores (s : State) (n : Nat) (b : Mbox) : (s.setBox n b).cores = s.cores := rfl
@[simp] theorem State.setBox_fab (s : State) (n : Nat) (b : Mbox) : (s.setBox n b).fab = s.fab := rfl
@[simp] theorem State.setBox_kv (s : State) (n : Nat) (b : Mbox) : (s.setBox n b).kv = s.kv := rfl
@[simp] theorem State.setBox_ep (s : State) (n : Nat) (b : Mbox) : (s.setBox n b).ep = s.ep := rfl
@[simp] theorem State.setBox_lead (s : State) (n : Nat) (b : Mbox) : (s.setBox n b).lead = s.lead := rfl
@[simp] theorem State.setBox_car (s : State) (n : Nat) (b : Mbox) : (s.setBox n b).car = s.car := rfl
@[simp] theorem State.setBox_rt (s : State) (n : Nat) (b : Mbox) : (s.setBox n b).rt = s.rt := rfl
@[simp] theorem State.setBox_ports (s : State) (n : Nat) (b : Mbox) : (s.setBox n b).ports = s.ports := rfl
@[simp] theorem State.setBox_dram (s : State) (n : Nat) (b : Mbox) : (s.setBox n b).dram = s.dram := rfl
@[simp] theorem State.setBox_beat (s : State) (n : Nat) (b : Mbox) : (s.setBox n b).beat = s.beat := rfl
@[simp] theorem State.setBox_sup (s : State) (n : Nat) (b : Mbox) : (s.setBox n b).sup = s.sup := rfl
@[simp] theorem State.setBox_pwr (s : State) (n : Nat) (b : Mbox) : (s.setBox n b).pwr = s.pwr := rfl
@[simp] theorem State.setBox_twin (s : State) (n : Nat) (b : Mbox) : (s.setBox n b).twin = s.twin := rfl
@[simp] theorem State.setBox_tap (s : State) (n : Nat) (b : Mbox) : (s.setBox n b).tap = s.tap := rfl
@[simp] theorem State.setBox_host (s : State) (n : Nat) (b : Mbox) : (s.setBox n b).host = s.host := rfl

/-! ### emit -/

@[simp] theorem State.emit_pending (s : State) (o : Out) : (s.emit o).pending = s.pending := rfl
@[simp] theorem State.emit_now (s : State) (o : Out) : (s.emit o).now = s.now := rfl
@[simp] theorem State.emit_free (s : State) (o : Out) : (s.emit o).free = s.free := rfl
@[simp] theorem State.emit_out (s : State) (o : Out) : (s.emit o).out = s.out ++ [o] := rfl
@[simp] theorem State.emit_cp (s : State) (o : Out) : (s.emit o).cp = s.cp := rfl
@[simp] theorem State.emit_bar (s : State) (o : Out) : (s.emit o).bar = s.bar := rfl
@[simp] theorem State.emit_pcie (s : State) (o : Out) : (s.emit o).pcie = s.pcie := rfl
@[simp] theorem State.emit_hif (s : State) (o : Out) : (s.emit o).hif = s.hif := rfl
@[simp] theorem State.emit_i3c (s : State) (o : Out) : (s.emit o).i3c = s.i3c := rfl
@[simp] theorem State.emit_mb (s : State) (o : Out) : (s.emit o).mb = s.mb := rfl
@[simp] theorem State.emit_ev (s : State) (o : Out) : (s.emit o).ev = s.ev := rfl
@[simp] theorem State.emit_tele (s : State) (o : Out) : (s.emit o).tele = s.tele := rfl
@[simp] theorem State.emit_img (s : State) (o : Out) : (s.emit o).img = s.img := rfl
@[simp] theorem State.emit_pol (s : State) (o : Out) : (s.emit o).pol = s.pol := rfl
@[simp] theorem State.emit_sec (s : State) (o : Out) : (s.emit o).sec = s.sec := rfl
@[simp] theorem State.emit_pat (s : State) (o : Out) : (s.emit o).pat = s.pat := rfl
@[simp] theorem State.emit_rud (s : State) (o : Out) : (s.emit o).rud = s.rud := rfl
@[simp] theorem State.emit_cores (s : State) (o : Out) : (s.emit o).cores = s.cores := rfl
@[simp] theorem State.emit_fab (s : State) (o : Out) : (s.emit o).fab = s.fab := rfl
@[simp] theorem State.emit_kv (s : State) (o : Out) : (s.emit o).kv = s.kv := rfl
@[simp] theorem State.emit_ep (s : State) (o : Out) : (s.emit o).ep = s.ep := rfl
@[simp] theorem State.emit_lead (s : State) (o : Out) : (s.emit o).lead = s.lead := rfl
@[simp] theorem State.emit_car (s : State) (o : Out) : (s.emit o).car = s.car := rfl
@[simp] theorem State.emit_rt (s : State) (o : Out) : (s.emit o).rt = s.rt := rfl
@[simp] theorem State.emit_ports (s : State) (o : Out) : (s.emit o).ports = s.ports := rfl
@[simp] theorem State.emit_dram (s : State) (o : Out) : (s.emit o).dram = s.dram := rfl
@[simp] theorem State.emit_beat (s : State) (o : Out) : (s.emit o).beat = s.beat := rfl
@[simp] theorem State.emit_sup (s : State) (o : Out) : (s.emit o).sup = s.sup := rfl
@[simp] theorem State.emit_pwr (s : State) (o : Out) : (s.emit o).pwr = s.pwr := rfl
@[simp] theorem State.emit_twin (s : State) (o : Out) : (s.emit o).twin = s.twin := rfl
@[simp] theorem State.emit_tap (s : State) (o : Out) : (s.emit o).tap = s.tap := rfl
@[simp] theorem State.emit_host (s : State) (o : Out) : (s.emit o).host = s.host := rfl

/-! ### at -/

@[simp] theorem State.at_pending (s : State) (t : Nat) : (s.at t).pending = s.pending := rfl
@[simp] theorem State.at_now (s : State) (t : Nat) : (s.at t).now = max s.now t := rfl
@[simp] theorem State.at_free (s : State) (t : Nat) : (s.at t).free = s.free := rfl
@[simp] theorem State.at_out (s : State) (t : Nat) : (s.at t).out = s.out := rfl
@[simp] theorem State.at_cp (s : State) (t : Nat) : (s.at t).cp = s.cp := rfl
@[simp] theorem State.at_bar (s : State) (t : Nat) : (s.at t).bar = s.bar := rfl
@[simp] theorem State.at_pcie (s : State) (t : Nat) : (s.at t).pcie = s.pcie := rfl
@[simp] theorem State.at_hif (s : State) (t : Nat) : (s.at t).hif = s.hif := rfl
@[simp] theorem State.at_i3c (s : State) (t : Nat) : (s.at t).i3c = s.i3c := rfl
@[simp] theorem State.at_mb (s : State) (t : Nat) : (s.at t).mb = s.mb := rfl
@[simp] theorem State.at_ev (s : State) (t : Nat) : (s.at t).ev = s.ev := rfl
@[simp] theorem State.at_tele (s : State) (t : Nat) : (s.at t).tele = s.tele := rfl
@[simp] theorem State.at_img (s : State) (t : Nat) : (s.at t).img = s.img := rfl
@[simp] theorem State.at_pol (s : State) (t : Nat) : (s.at t).pol = s.pol := rfl
@[simp] theorem State.at_sec (s : State) (t : Nat) : (s.at t).sec = s.sec := rfl
@[simp] theorem State.at_pat (s : State) (t : Nat) : (s.at t).pat = s.pat := rfl
@[simp] theorem State.at_rud (s : State) (t : Nat) : (s.at t).rud = s.rud := rfl
@[simp] theorem State.at_cores (s : State) (t : Nat) : (s.at t).cores = s.cores := rfl
@[simp] theorem State.at_fab (s : State) (t : Nat) : (s.at t).fab = s.fab := rfl
@[simp] theorem State.at_kv (s : State) (t : Nat) : (s.at t).kv = s.kv := rfl
@[simp] theorem State.at_ep (s : State) (t : Nat) : (s.at t).ep = s.ep := rfl
@[simp] theorem State.at_lead (s : State) (t : Nat) : (s.at t).lead = s.lead := rfl
@[simp] theorem State.at_car (s : State) (t : Nat) : (s.at t).car = s.car := rfl
@[simp] theorem State.at_rt (s : State) (t : Nat) : (s.at t).rt = s.rt := rfl
@[simp] theorem State.at_ports (s : State) (t : Nat) : (s.at t).ports = s.ports := rfl
@[simp] theorem State.at_dram (s : State) (t : Nat) : (s.at t).dram = s.dram := rfl
@[simp] theorem State.at_beat (s : State) (t : Nat) : (s.at t).beat = s.beat := rfl
@[simp] theorem State.at_sup (s : State) (t : Nat) : (s.at t).sup = s.sup := rfl
@[simp] theorem State.at_pwr (s : State) (t : Nat) : (s.at t).pwr = s.pwr := rfl
@[simp] theorem State.at_twin (s : State) (t : Nat) : (s.at t).twin = s.twin := rfl
@[simp] theorem State.at_tap (s : State) (t : Nat) : (s.at t).tap = s.tap := rfl
@[simp] theorem State.at_host (s : State) (t : Nat) : (s.at t).host = s.host := rfl

/-! ### count -/

@[simp] theorem State.count_pending (s : State) (pg n k : Nat) : (s.count pg n k).pending = s.pending := rfl
@[simp] theorem State.count_now (s : State) (pg n k : Nat) : (s.count pg n k).now = s.now := rfl
@[simp] theorem State.count_free (s : State) (pg n k : Nat) : (s.count pg n k).free = s.free := rfl
@[simp] theorem State.count_out (s : State) (pg n k : Nat) : (s.count pg n k).out = s.out := rfl
@[simp] theorem State.count_cp (s : State) (pg n k : Nat) : (s.count pg n k).cp = s.cp := rfl
@[simp] theorem State.count_bar (s : State) (pg n k : Nat) : (s.count pg n k).bar = s.bar := rfl
@[simp] theorem State.count_pcie (s : State) (pg n k : Nat) : (s.count pg n k).pcie = s.pcie := rfl
@[simp] theorem State.count_hif (s : State) (pg n k : Nat) : (s.count pg n k).hif = s.hif := rfl
@[simp] theorem State.count_i3c (s : State) (pg n k : Nat) : (s.count pg n k).i3c = s.i3c := rfl
@[simp] theorem State.count_mb (s : State) (pg n k : Nat) : (s.count pg n k).mb = s.mb := rfl
@[simp] theorem State.count_ev (s : State) (pg n k : Nat) : (s.count pg n k).ev = s.ev := rfl
@[simp] theorem State.count_tele (s : State) (pg n k : Nat) : (s.count pg n k).tele = Table.upd 0 s.tele (teleKey pg n) (· + k) := rfl
@[simp] theorem State.count_img (s : State) (pg n k : Nat) : (s.count pg n k).img = s.img := rfl
@[simp] theorem State.count_pol (s : State) (pg n k : Nat) : (s.count pg n k).pol = s.pol := rfl
@[simp] theorem State.count_sec (s : State) (pg n k : Nat) : (s.count pg n k).sec = s.sec := rfl
@[simp] theorem State.count_pat (s : State) (pg n k : Nat) : (s.count pg n k).pat = s.pat := rfl
@[simp] theorem State.count_rud (s : State) (pg n k : Nat) : (s.count pg n k).rud = s.rud := rfl
@[simp] theorem State.count_cores (s : State) (pg n k : Nat) : (s.count pg n k).cores = s.cores := rfl
@[simp] theorem State.count_fab (s : State) (pg n k : Nat) : (s.count pg n k).fab = s.fab := rfl
@[simp] theorem State.count_kv (s : State) (pg n k : Nat) : (s.count pg n k).kv = s.kv := rfl
@[simp] theorem State.count_ep (s : State) (pg n k : Nat) : (s.count pg n k).ep = s.ep := rfl
@[simp] theorem State.count_lead (s : State) (pg n k : Nat) : (s.count pg n k).lead = s.lead := rfl
@[simp] theorem State.count_car (s : State) (pg n k : Nat) : (s.count pg n k).car = s.car := rfl
@[simp] theorem State.count_rt (s : State) (pg n k : Nat) : (s.count pg n k).rt = s.rt := rfl
@[simp] theorem State.count_ports (s : State) (pg n k : Nat) : (s.count pg n k).ports = s.ports := rfl
@[simp] theorem State.count_dram (s : State) (pg n k : Nat) : (s.count pg n k).dram = s.dram := rfl
@[simp] theorem State.count_beat (s : State) (pg n k : Nat) : (s.count pg n k).beat = s.beat := rfl
@[simp] theorem State.count_sup (s : State) (pg n k : Nat) : (s.count pg n k).sup = s.sup := rfl
@[simp] theorem State.count_pwr (s : State) (pg n k : Nat) : (s.count pg n k).pwr = s.pwr := rfl
@[simp] theorem State.count_twin (s : State) (pg n k : Nat) : (s.count pg n k).twin = s.twin := rfl
@[simp] theorem State.count_tap (s : State) (pg n k : Nat) : (s.count pg n k).tap = s.tap := rfl
@[simp] theorem State.count_host (s : State) (pg n k : Nat) : (s.count pg n k).host = s.host := rfl

/-! ### teleMax -/

@[simp] theorem State.teleMax_pending (s : State) (pg n v : Nat) : (s.teleMax pg n v).pending = s.pending := rfl
@[simp] theorem State.teleMax_now (s : State) (pg n v : Nat) : (s.teleMax pg n v).now = s.now := rfl
@[simp] theorem State.teleMax_free (s : State) (pg n v : Nat) : (s.teleMax pg n v).free = s.free := rfl
@[simp] theorem State.teleMax_out (s : State) (pg n v : Nat) : (s.teleMax pg n v).out = s.out := rfl
@[simp] theorem State.teleMax_cp (s : State) (pg n v : Nat) : (s.teleMax pg n v).cp = s.cp := rfl
@[simp] theorem State.teleMax_bar (s : State) (pg n v : Nat) : (s.teleMax pg n v).bar = s.bar := rfl
@[simp] theorem State.teleMax_pcie (s : State) (pg n v : Nat) : (s.teleMax pg n v).pcie = s.pcie := rfl
@[simp] theorem State.teleMax_hif (s : State) (pg n v : Nat) : (s.teleMax pg n v).hif = s.hif := rfl
@[simp] theorem State.teleMax_i3c (s : State) (pg n v : Nat) : (s.teleMax pg n v).i3c = s.i3c := rfl
@[simp] theorem State.teleMax_mb (s : State) (pg n v : Nat) : (s.teleMax pg n v).mb = s.mb := rfl
@[simp] theorem State.teleMax_ev (s : State) (pg n v : Nat) : (s.teleMax pg n v).ev = s.ev := rfl
@[simp] theorem State.teleMax_tele (s : State) (pg n v : Nat) : (s.teleMax pg n v).tele = Table.upd 0 s.tele (teleKey pg n) (max v) := rfl
@[simp] theorem State.teleMax_img (s : State) (pg n v : Nat) : (s.teleMax pg n v).img = s.img := rfl
@[simp] theorem State.teleMax_pol (s : State) (pg n v : Nat) : (s.teleMax pg n v).pol = s.pol := rfl
@[simp] theorem State.teleMax_sec (s : State) (pg n v : Nat) : (s.teleMax pg n v).sec = s.sec := rfl
@[simp] theorem State.teleMax_pat (s : State) (pg n v : Nat) : (s.teleMax pg n v).pat = s.pat := rfl
@[simp] theorem State.teleMax_rud (s : State) (pg n v : Nat) : (s.teleMax pg n v).rud = s.rud := rfl
@[simp] theorem State.teleMax_cores (s : State) (pg n v : Nat) : (s.teleMax pg n v).cores = s.cores := rfl
@[simp] theorem State.teleMax_fab (s : State) (pg n v : Nat) : (s.teleMax pg n v).fab = s.fab := rfl
@[simp] theorem State.teleMax_kv (s : State) (pg n v : Nat) : (s.teleMax pg n v).kv = s.kv := rfl
@[simp] theorem State.teleMax_ep (s : State) (pg n v : Nat) : (s.teleMax pg n v).ep = s.ep := rfl
@[simp] theorem State.teleMax_lead (s : State) (pg n v : Nat) : (s.teleMax pg n v).lead = s.lead := rfl
@[simp] theorem State.teleMax_car (s : State) (pg n v : Nat) : (s.teleMax pg n v).car = s.car := rfl
@[simp] theorem State.teleMax_rt (s : State) (pg n v : Nat) : (s.teleMax pg n v).rt = s.rt := rfl
@[simp] theorem State.teleMax_ports (s : State) (pg n v : Nat) : (s.teleMax pg n v).ports = s.ports := rfl
@[simp] theorem State.teleMax_dram (s : State) (pg n v : Nat) : (s.teleMax pg n v).dram = s.dram := rfl
@[simp] theorem State.teleMax_beat (s : State) (pg n v : Nat) : (s.teleMax pg n v).beat = s.beat := rfl
@[simp] theorem State.teleMax_sup (s : State) (pg n v : Nat) : (s.teleMax pg n v).sup = s.sup := rfl
@[simp] theorem State.teleMax_pwr (s : State) (pg n v : Nat) : (s.teleMax pg n v).pwr = s.pwr := rfl
@[simp] theorem State.teleMax_twin (s : State) (pg n v : Nat) : (s.teleMax pg n v).twin = s.twin := rfl
@[simp] theorem State.teleMax_tap (s : State) (pg n v : Nat) : (s.teleMax pg n v).tap = s.tap := rfl
@[simp] theorem State.teleMax_host (s : State) (pg n v : Nat) : (s.teleMax pg n v).host = s.host := rfl

/-! ### drew -/

@[simp] theorem State.drew_pending (s : State) (n : Nat) : (s.drew n).pending = s.pending := rfl
@[simp] theorem State.drew_now (s : State) (n : Nat) : (s.drew n).now = s.now := rfl
@[simp] theorem State.drew_free (s : State) (n : Nat) : (s.drew n).free = s.free + n := rfl
@[simp] theorem State.drew_out (s : State) (n : Nat) : (s.drew n).out = s.out := rfl
@[simp] theorem State.drew_cp (s : State) (n : Nat) : (s.drew n).cp = s.cp := rfl
@[simp] theorem State.drew_bar (s : State) (n : Nat) : (s.drew n).bar = s.bar := rfl
@[simp] theorem State.drew_pcie (s : State) (n : Nat) : (s.drew n).pcie = s.pcie := rfl
@[simp] theorem State.drew_hif (s : State) (n : Nat) : (s.drew n).hif = s.hif := rfl
@[simp] theorem State.drew_i3c (s : State) (n : Nat) : (s.drew n).i3c = s.i3c := rfl
@[simp] theorem State.drew_mb (s : State) (n : Nat) : (s.drew n).mb = s.mb := rfl
@[simp] theorem State.drew_ev (s : State) (n : Nat) : (s.drew n).ev = s.ev := rfl
@[simp] theorem State.drew_tele (s : State) (n : Nat) : (s.drew n).tele = s.tele := rfl
@[simp] theorem State.drew_img (s : State) (n : Nat) : (s.drew n).img = s.img := rfl
@[simp] theorem State.drew_pol (s : State) (n : Nat) : (s.drew n).pol = s.pol := rfl
@[simp] theorem State.drew_sec (s : State) (n : Nat) : (s.drew n).sec = s.sec := rfl
@[simp] theorem State.drew_pat (s : State) (n : Nat) : (s.drew n).pat = s.pat := rfl
@[simp] theorem State.drew_rud (s : State) (n : Nat) : (s.drew n).rud = s.rud := rfl
@[simp] theorem State.drew_cores (s : State) (n : Nat) : (s.drew n).cores = s.cores := rfl
@[simp] theorem State.drew_fab (s : State) (n : Nat) : (s.drew n).fab = s.fab := rfl
@[simp] theorem State.drew_kv (s : State) (n : Nat) : (s.drew n).kv = s.kv := rfl
@[simp] theorem State.drew_ep (s : State) (n : Nat) : (s.drew n).ep = s.ep := rfl
@[simp] theorem State.drew_lead (s : State) (n : Nat) : (s.drew n).lead = s.lead := rfl
@[simp] theorem State.drew_car (s : State) (n : Nat) : (s.drew n).car = s.car := rfl
@[simp] theorem State.drew_rt (s : State) (n : Nat) : (s.drew n).rt = s.rt := rfl
@[simp] theorem State.drew_ports (s : State) (n : Nat) : (s.drew n).ports = s.ports := rfl
@[simp] theorem State.drew_dram (s : State) (n : Nat) : (s.drew n).dram = s.dram := rfl
@[simp] theorem State.drew_beat (s : State) (n : Nat) : (s.drew n).beat = s.beat := rfl
@[simp] theorem State.drew_sup (s : State) (n : Nat) : (s.drew n).sup = s.sup := rfl
@[simp] theorem State.drew_pwr (s : State) (n : Nat) : (s.drew n).pwr = s.pwr := rfl
@[simp] theorem State.drew_twin (s : State) (n : Nat) : (s.drew n).twin = s.twin := rfl
@[simp] theorem State.drew_tap (s : State) (n : Nat) : (s.drew n).tap = s.tap := rfl
@[simp] theorem State.drew_host (s : State) (n : Nat) : (s.drew n).host = s.host := rfl

/-! ### logEvent -/

@[simp] theorem State.logEvent_pending (s : State) (kind i code d0 d1 : Nat) : (s.logEvent kind i code d0 d1).pending = s.pending := rfl
@[simp] theorem State.logEvent_now (s : State) (kind i code d0 d1 : Nat) : (s.logEvent kind i code d0 d1).now = s.now := rfl
@[simp] theorem State.logEvent_free (s : State) (kind i code d0 d1 : Nat) : (s.logEvent kind i code d0 d1).free = s.free := rfl
@[simp] theorem State.logEvent_out (s : State) (kind i code d0 d1 : Nat) : (s.logEvent kind i code d0 d1).out = s.out := rfl
@[simp] theorem State.logEvent_cp (s : State) (kind i code d0 d1 : Nat) : (s.logEvent kind i code d0 d1).cp = s.cp := rfl
@[simp] theorem State.logEvent_bar (s : State) (kind i code d0 d1 : Nat) : (s.logEvent kind i code d0 d1).bar = s.bar := rfl
@[simp] theorem State.logEvent_pcie (s : State) (kind i code d0 d1 : Nat) : (s.logEvent kind i code d0 d1).pcie = s.pcie := rfl
@[simp] theorem State.logEvent_hif (s : State) (kind i code d0 d1 : Nat) : (s.logEvent kind i code d0 d1).hif = s.hif := rfl
@[simp] theorem State.logEvent_i3c (s : State) (kind i code d0 d1 : Nat) : (s.logEvent kind i code d0 d1).i3c = s.i3c := rfl
@[simp] theorem State.logEvent_mb (s : State) (kind i code d0 d1 : Nat) : (s.logEvent kind i code d0 d1).mb = s.mb := rfl
@[simp] theorem State.logEvent_tele (s : State) (kind i code d0 d1 : Nat) : (s.logEvent kind i code d0 d1).tele = s.tele := rfl
@[simp] theorem State.logEvent_img (s : State) (kind i code d0 d1 : Nat) : (s.logEvent kind i code d0 d1).img = s.img := rfl
@[simp] theorem State.logEvent_pol (s : State) (kind i code d0 d1 : Nat) : (s.logEvent kind i code d0 d1).pol = s.pol := rfl
@[simp] theorem State.logEvent_sec (s : State) (kind i code d0 d1 : Nat) : (s.logEvent kind i code d0 d1).sec = s.sec := rfl
@[simp] theorem State.logEvent_pat (s : State) (kind i code d0 d1 : Nat) : (s.logEvent kind i code d0 d1).pat = s.pat := rfl
@[simp] theorem State.logEvent_rud (s : State) (kind i code d0 d1 : Nat) : (s.logEvent kind i code d0 d1).rud = s.rud := rfl
@[simp] theorem State.logEvent_cores (s : State) (kind i code d0 d1 : Nat) : (s.logEvent kind i code d0 d1).cores = s.cores := rfl
@[simp] theorem State.logEvent_fab (s : State) (kind i code d0 d1 : Nat) : (s.logEvent kind i code d0 d1).fab = s.fab := rfl
@[simp] theorem State.logEvent_kv (s : State) (kind i code d0 d1 : Nat) : (s.logEvent kind i code d0 d1).kv = s.kv := rfl
@[simp] theorem State.logEvent_ep (s : State) (kind i code d0 d1 : Nat) : (s.logEvent kind i code d0 d1).ep = s.ep := rfl
@[simp] theorem State.logEvent_lead (s : State) (kind i code d0 d1 : Nat) : (s.logEvent kind i code d0 d1).lead = s.lead := rfl
@[simp] theorem State.logEvent_car (s : State) (kind i code d0 d1 : Nat) : (s.logEvent kind i code d0 d1).car = s.car := rfl
@[simp] theorem State.logEvent_rt (s : State) (kind i code d0 d1 : Nat) : (s.logEvent kind i code d0 d1).rt = s.rt := rfl
@[simp] theorem State.logEvent_ports (s : State) (kind i code d0 d1 : Nat) : (s.logEvent kind i code d0 d1).ports = s.ports := rfl
@[simp] theorem State.logEvent_dram (s : State) (kind i code d0 d1 : Nat) : (s.logEvent kind i code d0 d1).dram = s.dram := rfl
@[simp] theorem State.logEvent_beat (s : State) (kind i code d0 d1 : Nat) : (s.logEvent kind i code d0 d1).beat = s.beat := rfl
@[simp] theorem State.logEvent_sup (s : State) (kind i code d0 d1 : Nat) : (s.logEvent kind i code d0 d1).sup = s.sup := rfl
@[simp] theorem State.logEvent_pwr (s : State) (kind i code d0 d1 : Nat) : (s.logEvent kind i code d0 d1).pwr = s.pwr := rfl
@[simp] theorem State.logEvent_twin (s : State) (kind i code d0 d1 : Nat) : (s.logEvent kind i code d0 d1).twin = s.twin := rfl
@[simp] theorem State.logEvent_tap (s : State) (kind i code d0 d1 : Nat) : (s.logEvent kind i code d0 d1).tap = s.tap := rfl
@[simp] theorem State.logEvent_host (s : State) (kind i code d0 d1 : Nat) : (s.logEvent kind i code d0 d1).host = s.host := rfl

/-! ### setEng -/

@[simp] theorem State.setEng_pending (s : State) (c e : Nat) (r : Option Run) : (s.setEng c e r).pending = s.pending := rfl
@[simp] theorem State.setEng_now (s : State) (c e : Nat) (r : Option Run) : (s.setEng c e r).now = s.now := rfl
@[simp] theorem State.setEng_free (s : State) (c e : Nat) (r : Option Run) : (s.setEng c e r).free = s.free := rfl
@[simp] theorem State.setEng_out (s : State) (c e : Nat) (r : Option Run) : (s.setEng c e r).out = s.out := rfl
@[simp] theorem State.setEng_cp (s : State) (c e : Nat) (r : Option Run) : (s.setEng c e r).cp = s.cp := rfl
@[simp] theorem State.setEng_bar (s : State) (c e : Nat) (r : Option Run) : (s.setEng c e r).bar = s.bar := rfl
@[simp] theorem State.setEng_pcie (s : State) (c e : Nat) (r : Option Run) : (s.setEng c e r).pcie = s.pcie := rfl
@[simp] theorem State.setEng_hif (s : State) (c e : Nat) (r : Option Run) : (s.setEng c e r).hif = s.hif := rfl
@[simp] theorem State.setEng_i3c (s : State) (c e : Nat) (r : Option Run) : (s.setEng c e r).i3c = s.i3c := rfl
@[simp] theorem State.setEng_mb (s : State) (c e : Nat) (r : Option Run) : (s.setEng c e r).mb = s.mb := rfl
@[simp] theorem State.setEng_ev (s : State) (c e : Nat) (r : Option Run) : (s.setEng c e r).ev = s.ev := rfl
@[simp] theorem State.setEng_tele (s : State) (c e : Nat) (r : Option Run) : (s.setEng c e r).tele = s.tele := rfl
@[simp] theorem State.setEng_img (s : State) (c e : Nat) (r : Option Run) : (s.setEng c e r).img = s.img := rfl
@[simp] theorem State.setEng_pol (s : State) (c e : Nat) (r : Option Run) : (s.setEng c e r).pol = s.pol := rfl
@[simp] theorem State.setEng_sec (s : State) (c e : Nat) (r : Option Run) : (s.setEng c e r).sec = s.sec := rfl
@[simp] theorem State.setEng_pat (s : State) (c e : Nat) (r : Option Run) : (s.setEng c e r).pat = s.pat := rfl
@[simp] theorem State.setEng_rud (s : State) (c e : Nat) (r : Option Run) : (s.setEng c e r).rud = s.rud := rfl
@[simp] theorem State.setEng_fab (s : State) (c e : Nat) (r : Option Run) : (s.setEng c e r).fab = s.fab := rfl
@[simp] theorem State.setEng_kv (s : State) (c e : Nat) (r : Option Run) : (s.setEng c e r).kv = s.kv := rfl
@[simp] theorem State.setEng_ep (s : State) (c e : Nat) (r : Option Run) : (s.setEng c e r).ep = s.ep := rfl
@[simp] theorem State.setEng_lead (s : State) (c e : Nat) (r : Option Run) : (s.setEng c e r).lead = s.lead := rfl
@[simp] theorem State.setEng_car (s : State) (c e : Nat) (r : Option Run) : (s.setEng c e r).car = s.car := rfl
@[simp] theorem State.setEng_rt (s : State) (c e : Nat) (r : Option Run) : (s.setEng c e r).rt = s.rt := rfl
@[simp] theorem State.setEng_ports (s : State) (c e : Nat) (r : Option Run) : (s.setEng c e r).ports = s.ports := rfl
@[simp] theorem State.setEng_dram (s : State) (c e : Nat) (r : Option Run) : (s.setEng c e r).dram = s.dram := rfl
@[simp] theorem State.setEng_beat (s : State) (c e : Nat) (r : Option Run) : (s.setEng c e r).beat = s.beat := rfl
@[simp] theorem State.setEng_sup (s : State) (c e : Nat) (r : Option Run) : (s.setEng c e r).sup = s.sup := rfl
@[simp] theorem State.setEng_pwr (s : State) (c e : Nat) (r : Option Run) : (s.setEng c e r).pwr = s.pwr := rfl
@[simp] theorem State.setEng_twin (s : State) (c e : Nat) (r : Option Run) : (s.setEng c e r).twin = s.twin := rfl
@[simp] theorem State.setEng_tap (s : State) (c e : Nat) (r : Option Run) : (s.setEng c e r).tap = s.tap := rfl
@[simp] theorem State.setEng_host (s : State) (c e : Nat) (r : Option Run) : (s.setEng c e r).host = s.host := rfl

/-! ### upset -/

@[simp] theorem State.upset_pending (s : State) (c : Nat) (up : List (Nat × Nat)) : (s.upset c up).pending = s.pending := rfl
@[simp] theorem State.upset_now (s : State) (c : Nat) (up : List (Nat × Nat)) : (s.upset c up).now = s.now := rfl
@[simp] theorem State.upset_free (s : State) (c : Nat) (up : List (Nat × Nat)) : (s.upset c up).free = s.free := rfl
@[simp] theorem State.upset_out (s : State) (c : Nat) (up : List (Nat × Nat)) : (s.upset c up).out = s.out := rfl
@[simp] theorem State.upset_cp (s : State) (c : Nat) (up : List (Nat × Nat)) : (s.upset c up).cp = s.cp := rfl
@[simp] theorem State.upset_bar (s : State) (c : Nat) (up : List (Nat × Nat)) : (s.upset c up).bar = s.bar := rfl
@[simp] theorem State.upset_pcie (s : State) (c : Nat) (up : List (Nat × Nat)) : (s.upset c up).pcie = s.pcie := rfl
@[simp] theorem State.upset_hif (s : State) (c : Nat) (up : List (Nat × Nat)) : (s.upset c up).hif = s.hif := rfl
@[simp] theorem State.upset_i3c (s : State) (c : Nat) (up : List (Nat × Nat)) : (s.upset c up).i3c = s.i3c := rfl
@[simp] theorem State.upset_mb (s : State) (c : Nat) (up : List (Nat × Nat)) : (s.upset c up).mb = s.mb := rfl
@[simp] theorem State.upset_ev (s : State) (c : Nat) (up : List (Nat × Nat)) : (s.upset c up).ev = s.ev := rfl
@[simp] theorem State.upset_tele (s : State) (c : Nat) (up : List (Nat × Nat)) : (s.upset c up).tele = s.tele := rfl
@[simp] theorem State.upset_img (s : State) (c : Nat) (up : List (Nat × Nat)) : (s.upset c up).img = s.img := rfl
@[simp] theorem State.upset_pol (s : State) (c : Nat) (up : List (Nat × Nat)) : (s.upset c up).pol = s.pol := rfl
@[simp] theorem State.upset_sec (s : State) (c : Nat) (up : List (Nat × Nat)) : (s.upset c up).sec = s.sec := rfl
@[simp] theorem State.upset_pat (s : State) (c : Nat) (up : List (Nat × Nat)) : (s.upset c up).pat = s.pat := rfl
@[simp] theorem State.upset_rud (s : State) (c : Nat) (up : List (Nat × Nat)) : (s.upset c up).rud = s.rud := rfl
@[simp] theorem State.upset_fab (s : State) (c : Nat) (up : List (Nat × Nat)) : (s.upset c up).fab = s.fab := rfl
@[simp] theorem State.upset_kv (s : State) (c : Nat) (up : List (Nat × Nat)) : (s.upset c up).kv = s.kv := rfl
@[simp] theorem State.upset_ep (s : State) (c : Nat) (up : List (Nat × Nat)) : (s.upset c up).ep = s.ep := rfl
@[simp] theorem State.upset_lead (s : State) (c : Nat) (up : List (Nat × Nat)) : (s.upset c up).lead = s.lead := rfl
@[simp] theorem State.upset_car (s : State) (c : Nat) (up : List (Nat × Nat)) : (s.upset c up).car = s.car := rfl
@[simp] theorem State.upset_rt (s : State) (c : Nat) (up : List (Nat × Nat)) : (s.upset c up).rt = s.rt := rfl
@[simp] theorem State.upset_ports (s : State) (c : Nat) (up : List (Nat × Nat)) : (s.upset c up).ports = s.ports := rfl
@[simp] theorem State.upset_dram (s : State) (c : Nat) (up : List (Nat × Nat)) : (s.upset c up).dram = s.dram := rfl
@[simp] theorem State.upset_beat (s : State) (c : Nat) (up : List (Nat × Nat)) : (s.upset c up).beat = s.beat := rfl
@[simp] theorem State.upset_sup (s : State) (c : Nat) (up : List (Nat × Nat)) : (s.upset c up).sup = s.sup := rfl
@[simp] theorem State.upset_pwr (s : State) (c : Nat) (up : List (Nat × Nat)) : (s.upset c up).pwr = s.pwr := rfl
@[simp] theorem State.upset_twin (s : State) (c : Nat) (up : List (Nat × Nat)) : (s.upset c up).twin = s.twin := rfl
@[simp] theorem State.upset_tap (s : State) (c : Nat) (up : List (Nat × Nat)) : (s.upset c up).tap = s.tap := rfl
@[simp] theorem State.upset_host (s : State) (c : Nat) (up : List (Nat × Nat)) : (s.upset c up).host = s.host := rfl

/-! ### setPoison -/

@[simp] theorem State.setPoison_pending (s : State) : (s.setPoison).pending = s.pending := rfl
@[simp] theorem State.setPoison_now (s : State) : (s.setPoison).now = s.now := rfl
@[simp] theorem State.setPoison_free (s : State) : (s.setPoison).free = s.free := rfl
@[simp] theorem State.setPoison_out (s : State) : (s.setPoison).out = s.out := rfl
@[simp] theorem State.setPoison_cp (s : State) : (s.setPoison).cp = s.cp := rfl
@[simp] theorem State.setPoison_bar (s : State) : (s.setPoison).bar = s.bar := rfl
@[simp] theorem State.setPoison_pcie (s : State) : (s.setPoison).pcie = s.pcie := rfl
@[simp] theorem State.setPoison_hif (s : State) : (s.setPoison).hif = s.hif := rfl
@[simp] theorem State.setPoison_i3c (s : State) : (s.setPoison).i3c = s.i3c := rfl
@[simp] theorem State.setPoison_mb (s : State) : (s.setPoison).mb = s.mb := rfl
@[simp] theorem State.setPoison_ev (s : State) : (s.setPoison).ev = s.ev := rfl
@[simp] theorem State.setPoison_tele (s : State) : (s.setPoison).tele = s.tele := rfl
@[simp] theorem State.setPoison_img (s : State) : (s.setPoison).img = s.img := rfl
@[simp] theorem State.setPoison_pol (s : State) : (s.setPoison).pol = s.pol := rfl
@[simp] theorem State.setPoison_sec (s : State) : (s.setPoison).sec = s.sec := rfl
@[simp] theorem State.setPoison_pat (s : State) : (s.setPoison).pat = s.pat := rfl
@[simp] theorem State.setPoison_rud (s : State) : (s.setPoison).rud = s.rud := rfl
@[simp] theorem State.setPoison_cores (s : State) : (s.setPoison).cores = s.cores := rfl
@[simp] theorem State.setPoison_fab (s : State) : (s.setPoison).fab = s.fab := rfl
@[simp] theorem State.setPoison_kv (s : State) : (s.setPoison).kv = s.kv := rfl
@[simp] theorem State.setPoison_lead (s : State) : (s.setPoison).lead = s.lead := rfl
@[simp] theorem State.setPoison_car (s : State) : (s.setPoison).car = s.car := rfl
@[simp] theorem State.setPoison_rt (s : State) : (s.setPoison).rt = s.rt := rfl
@[simp] theorem State.setPoison_ports (s : State) : (s.setPoison).ports = s.ports := rfl
@[simp] theorem State.setPoison_dram (s : State) : (s.setPoison).dram = s.dram := rfl
@[simp] theorem State.setPoison_beat (s : State) : (s.setPoison).beat = s.beat := rfl
@[simp] theorem State.setPoison_sup (s : State) : (s.setPoison).sup = s.sup := rfl
@[simp] theorem State.setPoison_pwr (s : State) : (s.setPoison).pwr = s.pwr := rfl
@[simp] theorem State.setPoison_twin (s : State) : (s.setPoison).twin = s.twin := rfl
@[simp] theorem State.setPoison_tap (s : State) : (s.setPoison).tap = s.tap := rfl
@[simp] theorem State.setPoison_host (s : State) : (s.setPoison).host = s.host := rfl

/-! ### setRec -/

@[simp] theorem State.setRec_pending (s : State) (r : Nat) (p : Option Page) : (s.setRec r p).pending = s.pending := rfl
@[simp] theorem State.setRec_now (s : State) (r : Nat) (p : Option Page) : (s.setRec r p).now = s.now := rfl
@[simp] theorem State.setRec_free (s : State) (r : Nat) (p : Option Page) : (s.setRec r p).free = s.free := rfl
@[simp] theorem State.setRec_out (s : State) (r : Nat) (p : Option Page) : (s.setRec r p).out = s.out := rfl
@[simp] theorem State.setRec_cp (s : State) (r : Nat) (p : Option Page) : (s.setRec r p).cp = s.cp := rfl
@[simp] theorem State.setRec_bar (s : State) (r : Nat) (p : Option Page) : (s.setRec r p).bar = s.bar := rfl
@[simp] theorem State.setRec_pcie (s : State) (r : Nat) (p : Option Page) : (s.setRec r p).pcie = s.pcie := rfl
@[simp] theorem State.setRec_hif (s : State) (r : Nat) (p : Option Page) : (s.setRec r p).hif = s.hif := rfl
@[simp] theorem State.setRec_i3c (s : State) (r : Nat) (p : Option Page) : (s.setRec r p).i3c = s.i3c := rfl
@[simp] theorem State.setRec_mb (s : State) (r : Nat) (p : Option Page) : (s.setRec r p).mb = s.mb := rfl
@[simp] theorem State.setRec_ev (s : State) (r : Nat) (p : Option Page) : (s.setRec r p).ev = s.ev := rfl
@[simp] theorem State.setRec_tele (s : State) (r : Nat) (p : Option Page) : (s.setRec r p).tele = s.tele := rfl
@[simp] theorem State.setRec_img (s : State) (r : Nat) (p : Option Page) : (s.setRec r p).img = s.img := rfl
@[simp] theorem State.setRec_pol (s : State) (r : Nat) (p : Option Page) : (s.setRec r p).pol = s.pol := rfl
@[simp] theorem State.setRec_sec (s : State) (r : Nat) (p : Option Page) : (s.setRec r p).sec = s.sec := rfl
@[simp] theorem State.setRec_pat (s : State) (r : Nat) (p : Option Page) : (s.setRec r p).pat = s.pat := rfl
@[simp] theorem State.setRec_rud (s : State) (r : Nat) (p : Option Page) : (s.setRec r p).rud = s.rud := rfl
@[simp] theorem State.setRec_cores (s : State) (r : Nat) (p : Option Page) : (s.setRec r p).cores = s.cores := rfl
@[simp] theorem State.setRec_fab (s : State) (r : Nat) (p : Option Page) : (s.setRec r p).fab = s.fab := rfl
@[simp] theorem State.setRec_ep (s : State) (r : Nat) (p : Option Page) : (s.setRec r p).ep = s.ep := rfl
@[simp] theorem State.setRec_lead (s : State) (r : Nat) (p : Option Page) : (s.setRec r p).lead = s.lead := rfl
@[simp] theorem State.setRec_car (s : State) (r : Nat) (p : Option Page) : (s.setRec r p).car = s.car := rfl
@[simp] theorem State.setRec_rt (s : State) (r : Nat) (p : Option Page) : (s.setRec r p).rt = s.rt := rfl
@[simp] theorem State.setRec_ports (s : State) (r : Nat) (p : Option Page) : (s.setRec r p).ports = s.ports := rfl
@[simp] theorem State.setRec_dram (s : State) (r : Nat) (p : Option Page) : (s.setRec r p).dram = s.dram := rfl
@[simp] theorem State.setRec_beat (s : State) (r : Nat) (p : Option Page) : (s.setRec r p).beat = s.beat := rfl
@[simp] theorem State.setRec_sup (s : State) (r : Nat) (p : Option Page) : (s.setRec r p).sup = s.sup := rfl
@[simp] theorem State.setRec_pwr (s : State) (r : Nat) (p : Option Page) : (s.setRec r p).pwr = s.pwr := rfl
@[simp] theorem State.setRec_twin (s : State) (r : Nat) (p : Option Page) : (s.setRec r p).twin = s.twin := rfl
@[simp] theorem State.setRec_tap (s : State) (r : Nat) (p : Option Page) : (s.setRec r p).tap = s.tap := rfl
@[simp] theorem State.setRec_host (s : State) (r : Nat) (p : Option Page) : (s.setRec r p).host = s.host := rfl

/-! ### setHdr -/

@[simp] theorem State.setHdr_pending (s : State) (q : Nat) (h : List Nat) : (s.setHdr q h).pending = s.pending := rfl
@[simp] theorem State.setHdr_now (s : State) (q : Nat) (h : List Nat) : (s.setHdr q h).now = s.now := rfl
@[simp] theorem State.setHdr_free (s : State) (q : Nat) (h : List Nat) : (s.setHdr q h).free = s.free := rfl
@[simp] theorem State.setHdr_out (s : State) (q : Nat) (h : List Nat) : (s.setHdr q h).out = s.out := rfl
@[simp] theorem State.setHdr_cp (s : State) (q : Nat) (h : List Nat) : (s.setHdr q h).cp = s.cp := rfl
@[simp] theorem State.setHdr_bar (s : State) (q : Nat) (h : List Nat) : (s.setHdr q h).bar = s.bar := rfl
@[simp] theorem State.setHdr_pcie (s : State) (q : Nat) (h : List Nat) : (s.setHdr q h).pcie = s.pcie := rfl
@[simp] theorem State.setHdr_hif (s : State) (q : Nat) (h : List Nat) : (s.setHdr q h).hif = s.hif := rfl
@[simp] theorem State.setHdr_i3c (s : State) (q : Nat) (h : List Nat) : (s.setHdr q h).i3c = s.i3c := rfl
@[simp] theorem State.setHdr_mb (s : State) (q : Nat) (h : List Nat) : (s.setHdr q h).mb = s.mb := rfl
@[simp] theorem State.setHdr_ev (s : State) (q : Nat) (h : List Nat) : (s.setHdr q h).ev = s.ev := rfl
@[simp] theorem State.setHdr_tele (s : State) (q : Nat) (h : List Nat) : (s.setHdr q h).tele = s.tele := rfl
@[simp] theorem State.setHdr_img (s : State) (q : Nat) (h : List Nat) : (s.setHdr q h).img = s.img := rfl
@[simp] theorem State.setHdr_pol (s : State) (q : Nat) (h : List Nat) : (s.setHdr q h).pol = s.pol := rfl
@[simp] theorem State.setHdr_sec (s : State) (q : Nat) (h : List Nat) : (s.setHdr q h).sec = s.sec := rfl
@[simp] theorem State.setHdr_pat (s : State) (q : Nat) (h : List Nat) : (s.setHdr q h).pat = s.pat := rfl
@[simp] theorem State.setHdr_rud (s : State) (q : Nat) (h : List Nat) : (s.setHdr q h).rud = s.rud := rfl
@[simp] theorem State.setHdr_cores (s : State) (q : Nat) (h : List Nat) : (s.setHdr q h).cores = s.cores := rfl
@[simp] theorem State.setHdr_fab (s : State) (q : Nat) (h : List Nat) : (s.setHdr q h).fab = s.fab := rfl
@[simp] theorem State.setHdr_kv (s : State) (q : Nat) (h : List Nat) : (s.setHdr q h).kv = { s.kv with hdrs := Table.set [] s.kv.hdrs q h } := rfl
@[simp] theorem State.setHdr_ep (s : State) (q : Nat) (h : List Nat) : (s.setHdr q h).ep = s.ep := rfl
@[simp] theorem State.setHdr_lead (s : State) (q : Nat) (h : List Nat) : (s.setHdr q h).lead = s.lead := rfl
@[simp] theorem State.setHdr_car (s : State) (q : Nat) (h : List Nat) : (s.setHdr q h).car = s.car := rfl
@[simp] theorem State.setHdr_rt (s : State) (q : Nat) (h : List Nat) : (s.setHdr q h).rt = s.rt := rfl
@[simp] theorem State.setHdr_ports (s : State) (q : Nat) (h : List Nat) : (s.setHdr q h).ports = s.ports := rfl
@[simp] theorem State.setHdr_dram (s : State) (q : Nat) (h : List Nat) : (s.setHdr q h).dram = s.dram := rfl
@[simp] theorem State.setHdr_beat (s : State) (q : Nat) (h : List Nat) : (s.setHdr q h).beat = s.beat := rfl
@[simp] theorem State.setHdr_sup (s : State) (q : Nat) (h : List Nat) : (s.setHdr q h).sup = s.sup := rfl
@[simp] theorem State.setHdr_pwr (s : State) (q : Nat) (h : List Nat) : (s.setHdr q h).pwr = s.pwr := rfl
@[simp] theorem State.setHdr_twin (s : State) (q : Nat) (h : List Nat) : (s.setHdr q h).twin = s.twin := rfl
@[simp] theorem State.setHdr_tap (s : State) (q : Nat) (h : List Nat) : (s.setHdr q h).tap = s.tap := rfl
@[simp] theorem State.setHdr_host (s : State) (q : Nat) (h : List Nat) : (s.setHdr q h).host = s.host := rfl

/-! ### setLens -/

@[simp] theorem State.setLens_pending (s : State) (q : Nat) (l : Lens) : (s.setLens q l).pending = s.pending := rfl
@[simp] theorem State.setLens_now (s : State) (q : Nat) (l : Lens) : (s.setLens q l).now = s.now := rfl
@[simp] theorem State.setLens_free (s : State) (q : Nat) (l : Lens) : (s.setLens q l).free = s.free := rfl
@[simp] theorem State.setLens_out (s : State) (q : Nat) (l : Lens) : (s.setLens q l).out = s.out := rfl
@[simp] theorem State.setLens_cp (s : State) (q : Nat) (l : Lens) : (s.setLens q l).cp = s.cp := rfl
@[simp] theorem State.setLens_bar (s : State) (q : Nat) (l : Lens) : (s.setLens q l).bar = s.bar := rfl
@[simp] theorem State.setLens_pcie (s : State) (q : Nat) (l : Lens) : (s.setLens q l).pcie = s.pcie := rfl
@[simp] theorem State.setLens_hif (s : State) (q : Nat) (l : Lens) : (s.setLens q l).hif = s.hif := rfl
@[simp] theorem State.setLens_i3c (s : State) (q : Nat) (l : Lens) : (s.setLens q l).i3c = s.i3c := rfl
@[simp] theorem State.setLens_mb (s : State) (q : Nat) (l : Lens) : (s.setLens q l).mb = s.mb := rfl
@[simp] theorem State.setLens_ev (s : State) (q : Nat) (l : Lens) : (s.setLens q l).ev = s.ev := rfl
@[simp] theorem State.setLens_tele (s : State) (q : Nat) (l : Lens) : (s.setLens q l).tele = s.tele := rfl
@[simp] theorem State.setLens_img (s : State) (q : Nat) (l : Lens) : (s.setLens q l).img = s.img := rfl
@[simp] theorem State.setLens_pol (s : State) (q : Nat) (l : Lens) : (s.setLens q l).pol = s.pol := rfl
@[simp] theorem State.setLens_sec (s : State) (q : Nat) (l : Lens) : (s.setLens q l).sec = s.sec := rfl
@[simp] theorem State.setLens_pat (s : State) (q : Nat) (l : Lens) : (s.setLens q l).pat = s.pat := rfl
@[simp] theorem State.setLens_rud (s : State) (q : Nat) (l : Lens) : (s.setLens q l).rud = s.rud := rfl
@[simp] theorem State.setLens_cores (s : State) (q : Nat) (l : Lens) : (s.setLens q l).cores = s.cores := rfl
@[simp] theorem State.setLens_fab (s : State) (q : Nat) (l : Lens) : (s.setLens q l).fab = s.fab := rfl
@[simp] theorem State.setLens_kv (s : State) (q : Nat) (l : Lens) : (s.setLens q l).kv = { s.kv with lens := Table.set Lens.init s.kv.lens q l } := rfl
@[simp] theorem State.setLens_ep (s : State) (q : Nat) (l : Lens) : (s.setLens q l).ep = s.ep := rfl
@[simp] theorem State.setLens_lead (s : State) (q : Nat) (l : Lens) : (s.setLens q l).lead = s.lead := rfl
@[simp] theorem State.setLens_car (s : State) (q : Nat) (l : Lens) : (s.setLens q l).car = s.car := rfl
@[simp] theorem State.setLens_rt (s : State) (q : Nat) (l : Lens) : (s.setLens q l).rt = s.rt := rfl
@[simp] theorem State.setLens_ports (s : State) (q : Nat) (l : Lens) : (s.setLens q l).ports = s.ports := rfl
@[simp] theorem State.setLens_dram (s : State) (q : Nat) (l : Lens) : (s.setLens q l).dram = s.dram := rfl
@[simp] theorem State.setLens_beat (s : State) (q : Nat) (l : Lens) : (s.setLens q l).beat = s.beat := rfl
@[simp] theorem State.setLens_sup (s : State) (q : Nat) (l : Lens) : (s.setLens q l).sup = s.sup := rfl
@[simp] theorem State.setLens_pwr (s : State) (q : Nat) (l : Lens) : (s.setLens q l).pwr = s.pwr := rfl
@[simp] theorem State.setLens_twin (s : State) (q : Nat) (l : Lens) : (s.setLens q l).twin = s.twin := rfl
@[simp] theorem State.setLens_tap (s : State) (q : Nat) (l : Lens) : (s.setLens q l).tap = s.tap := rfl
@[simp] theorem State.setLens_host (s : State) (q : Nat) (l : Lens) : (s.setLens q l).host = s.host := rfl

/-! ### toPhase -/

@[simp] theorem State.toPhase_pending (s : State) (p : Nat) : (s.toPhase p).pending = s.pending := rfl
@[simp] theorem State.toPhase_now (s : State) (p : Nat) : (s.toPhase p).now = s.now := rfl
@[simp] theorem State.toPhase_free (s : State) (p : Nat) : (s.toPhase p).free = s.free := rfl
@[simp] theorem State.toPhase_out (s : State) (p : Nat) : (s.toPhase p).out = s.out := rfl
@[simp] theorem State.toPhase_cp (s : State) (p : Nat) : (s.toPhase p).cp = { s.cp with phase := p, phaseAt := s.now } := rfl
@[simp] theorem State.toPhase_bar (s : State) (p : Nat) : (s.toPhase p).bar = s.bar := rfl
@[simp] theorem State.toPhase_pcie (s : State) (p : Nat) : (s.toPhase p).pcie = s.pcie := rfl
@[simp] theorem State.toPhase_hif (s : State) (p : Nat) : (s.toPhase p).hif = s.hif := rfl
@[simp] theorem State.toPhase_i3c (s : State) (p : Nat) : (s.toPhase p).i3c = s.i3c := rfl
@[simp] theorem State.toPhase_mb (s : State) (p : Nat) : (s.toPhase p).mb = s.mb := rfl
@[simp] theorem State.toPhase_ev (s : State) (p : Nat) : (s.toPhase p).ev = s.ev := rfl
@[simp] theorem State.toPhase_tele (s : State) (p : Nat) : (s.toPhase p).tele = s.tele := rfl
@[simp] theorem State.toPhase_img (s : State) (p : Nat) : (s.toPhase p).img = s.img := rfl
@[simp] theorem State.toPhase_pol (s : State) (p : Nat) : (s.toPhase p).pol = s.pol := rfl
@[simp] theorem State.toPhase_sec (s : State) (p : Nat) : (s.toPhase p).sec = s.sec := rfl
@[simp] theorem State.toPhase_pat (s : State) (p : Nat) : (s.toPhase p).pat = s.pat := rfl
@[simp] theorem State.toPhase_rud (s : State) (p : Nat) : (s.toPhase p).rud = s.rud := rfl
@[simp] theorem State.toPhase_cores (s : State) (p : Nat) : (s.toPhase p).cores = s.cores := rfl
@[simp] theorem State.toPhase_fab (s : State) (p : Nat) : (s.toPhase p).fab = s.fab := rfl
@[simp] theorem State.toPhase_kv (s : State) (p : Nat) : (s.toPhase p).kv = s.kv := rfl
@[simp] theorem State.toPhase_ep (s : State) (p : Nat) : (s.toPhase p).ep = s.ep := rfl
@[simp] theorem State.toPhase_lead (s : State) (p : Nat) : (s.toPhase p).lead = s.lead := rfl
@[simp] theorem State.toPhase_car (s : State) (p : Nat) : (s.toPhase p).car = s.car := rfl
@[simp] theorem State.toPhase_rt (s : State) (p : Nat) : (s.toPhase p).rt = s.rt := rfl
@[simp] theorem State.toPhase_ports (s : State) (p : Nat) : (s.toPhase p).ports = s.ports := rfl
@[simp] theorem State.toPhase_dram (s : State) (p : Nat) : (s.toPhase p).dram = s.dram := rfl
@[simp] theorem State.toPhase_beat (s : State) (p : Nat) : (s.toPhase p).beat = s.beat := rfl
@[simp] theorem State.toPhase_sup (s : State) (p : Nat) : (s.toPhase p).sup = s.sup := rfl
@[simp] theorem State.toPhase_pwr (s : State) (p : Nat) : (s.toPhase p).pwr = s.pwr := rfl
@[simp] theorem State.toPhase_twin (s : State) (p : Nat) : (s.toPhase p).twin = s.twin := rfl
@[simp] theorem State.toPhase_tap (s : State) (p : Nat) : (s.toPhase p).tap = s.tap := rfl
@[simp] theorem State.toPhase_host (s : State) (p : Nat) : (s.toPhase p).host = s.host := rfl

/-! ### openWindow -/

@[simp] theorem State.openWindow_pending (s : State) (w : Nat) : (s.openWindow w).pending = s.pending := rfl
@[simp] theorem State.openWindow_now (s : State) (w : Nat) : (s.openWindow w).now = s.now := rfl
@[simp] theorem State.openWindow_free (s : State) (w : Nat) : (s.openWindow w).free = s.free := rfl
@[simp] theorem State.openWindow_out (s : State) (w : Nat) : (s.openWindow w).out = s.out := rfl
@[simp] theorem State.openWindow_cp (s : State) (w : Nat) : (s.openWindow w).cp = s.cp := rfl
@[simp] theorem State.openWindow_bar (s : State) (w : Nat) : (s.openWindow w).bar = s.bar := rfl
@[simp] theorem State.openWindow_pcie (s : State) (w : Nat) : (s.openWindow w).pcie = s.pcie := rfl
@[simp] theorem State.openWindow_hif (s : State) (w : Nat) : (s.openWindow w).hif = s.hif := rfl
@[simp] theorem State.openWindow_i3c (s : State) (w : Nat) : (s.openWindow w).i3c = s.i3c := rfl
@[simp] theorem State.openWindow_mb (s : State) (w : Nat) : (s.openWindow w).mb = s.mb := rfl
@[simp] theorem State.openWindow_ev (s : State) (w : Nat) : (s.openWindow w).ev = s.ev := rfl
@[simp] theorem State.openWindow_tele (s : State) (w : Nat) : (s.openWindow w).tele = s.tele := rfl
@[simp] theorem State.openWindow_img (s : State) (w : Nat) : (s.openWindow w).img = s.img := rfl
@[simp] theorem State.openWindow_pol (s : State) (w : Nat) : (s.openWindow w).pol = s.pol := rfl
@[simp] theorem State.openWindow_sec (s : State) (w : Nat) : (s.openWindow w).sec = s.sec := rfl
@[simp] theorem State.openWindow_pat (s : State) (w : Nat) : (s.openWindow w).pat = s.pat := rfl
@[simp] theorem State.openWindow_rud (s : State) (w : Nat) : (s.openWindow w).rud = s.rud := rfl
@[simp] theorem State.openWindow_cores (s : State) (w : Nat) : (s.openWindow w).cores = s.cores := rfl
@[simp] theorem State.openWindow_fab (s : State) (w : Nat) : (s.openWindow w).fab = s.fab := rfl
@[simp] theorem State.openWindow_kv (s : State) (w : Nat) : (s.openWindow w).kv = s.kv := rfl
@[simp] theorem State.openWindow_ep (s : State) (w : Nat) : (s.openWindow w).ep = s.ep := rfl
@[simp] theorem State.openWindow_lead (s : State) (w : Nat) : (s.openWindow w).lead = s.lead := rfl
@[simp] theorem State.openWindow_car (s : State) (w : Nat) : (s.openWindow w).car = s.car := rfl
@[simp] theorem State.openWindow_rt (s : State) (w : Nat) : (s.openWindow w).rt = s.rt := rfl
@[simp] theorem State.openWindow_ports (s : State) (w : Nat) : (s.openWindow w).ports = s.ports := rfl
@[simp] theorem State.openWindow_dram (s : State) (w : Nat) : (s.openWindow w).dram = { s.dram with closed := true } := rfl
@[simp] theorem State.openWindow_beat (s : State) (w : Nat) : (s.openWindow w).beat = { s.beat with window := w } := rfl
@[simp] theorem State.openWindow_sup (s : State) (w : Nat) : (s.openWindow w).sup = s.sup := rfl
@[simp] theorem State.openWindow_pwr (s : State) (w : Nat) : (s.openWindow w).pwr = s.pwr := rfl
@[simp] theorem State.openWindow_twin (s : State) (w : Nat) : (s.openWindow w).twin = s.twin := rfl
@[simp] theorem State.openWindow_tap (s : State) (w : Nat) : (s.openWindow w).tap = s.tap := rfl
@[simp] theorem State.openWindow_host (s : State) (w : Nat) : (s.openWindow w).host = s.host := rfl

/-! ### closeWindow -/

@[simp] theorem State.closeWindow_pending (s : State) : (s.closeWindow).pending = s.pending := rfl
@[simp] theorem State.closeWindow_now (s : State) : (s.closeWindow).now = s.now := rfl
@[simp] theorem State.closeWindow_free (s : State) : (s.closeWindow).free = s.free := rfl
@[simp] theorem State.closeWindow_out (s : State) : (s.closeWindow).out = s.out := rfl
@[simp] theorem State.closeWindow_cp (s : State) : (s.closeWindow).cp = s.cp := rfl
@[simp] theorem State.closeWindow_bar (s : State) : (s.closeWindow).bar = s.bar := rfl
@[simp] theorem State.closeWindow_pcie (s : State) : (s.closeWindow).pcie = s.pcie := rfl
@[simp] theorem State.closeWindow_hif (s : State) : (s.closeWindow).hif = s.hif := rfl
@[simp] theorem State.closeWindow_i3c (s : State) : (s.closeWindow).i3c = s.i3c := rfl
@[simp] theorem State.closeWindow_mb (s : State) : (s.closeWindow).mb = s.mb := rfl
@[simp] theorem State.closeWindow_ev (s : State) : (s.closeWindow).ev = s.ev := rfl
@[simp] theorem State.closeWindow_tele (s : State) : (s.closeWindow).tele = s.tele := rfl
@[simp] theorem State.closeWindow_img (s : State) : (s.closeWindow).img = s.img := rfl
@[simp] theorem State.closeWindow_pol (s : State) : (s.closeWindow).pol = s.pol := rfl
@[simp] theorem State.closeWindow_sec (s : State) : (s.closeWindow).sec = s.sec := rfl
@[simp] theorem State.closeWindow_pat (s : State) : (s.closeWindow).pat = s.pat := rfl
@[simp] theorem State.closeWindow_rud (s : State) : (s.closeWindow).rud = s.rud := rfl
@[simp] theorem State.closeWindow_cores (s : State) : (s.closeWindow).cores = s.cores := rfl
@[simp] theorem State.closeWindow_fab (s : State) : (s.closeWindow).fab = s.fab := rfl
@[simp] theorem State.closeWindow_kv (s : State) : (s.closeWindow).kv = s.kv := rfl
@[simp] theorem State.closeWindow_ep (s : State) : (s.closeWindow).ep = s.ep := rfl
@[simp] theorem State.closeWindow_lead (s : State) : (s.closeWindow).lead = s.lead := rfl
@[simp] theorem State.closeWindow_car (s : State) : (s.closeWindow).car = s.car := rfl
@[simp] theorem State.closeWindow_rt (s : State) : (s.closeWindow).rt = s.rt := rfl
@[simp] theorem State.closeWindow_ports (s : State) : (s.closeWindow).ports = s.ports := rfl
@[simp] theorem State.closeWindow_dram (s : State) : (s.closeWindow).dram = { s.dram with closed := false } := rfl
@[simp] theorem State.closeWindow_beat (s : State) : (s.closeWindow).beat = { s.beat with window := 0 } := rfl
@[simp] theorem State.closeWindow_sup (s : State) : (s.closeWindow).sup = s.sup := rfl
@[simp] theorem State.closeWindow_pwr (s : State) : (s.closeWindow).pwr = s.pwr := rfl
@[simp] theorem State.closeWindow_twin (s : State) : (s.closeWindow).twin = s.twin := rfl
@[simp] theorem State.closeWindow_tap (s : State) : (s.closeWindow).tap = s.tap := rfl
@[simp] theorem State.closeWindow_host (s : State) : (s.closeWindow).host = s.host := rfl

/-! ### updCtr -/

@[simp] theorem State.updCtr_pending (s : State) (n : Nat) (f : Wctr → Wctr) : (s.updCtr n f).pending = s.pending := rfl
@[simp] theorem State.updCtr_now (s : State) (n : Nat) (f : Wctr → Wctr) : (s.updCtr n f).now = s.now := rfl
@[simp] theorem State.updCtr_free (s : State) (n : Nat) (f : Wctr → Wctr) : (s.updCtr n f).free = s.free := rfl
@[simp] theorem State.updCtr_out (s : State) (n : Nat) (f : Wctr → Wctr) : (s.updCtr n f).out = s.out := rfl
@[simp] theorem State.updCtr_cp (s : State) (n : Nat) (f : Wctr → Wctr) : (s.updCtr n f).cp = s.cp := rfl
@[simp] theorem State.updCtr_bar (s : State) (n : Nat) (f : Wctr → Wctr) : (s.updCtr n f).bar = s.bar := rfl
@[simp] theorem State.updCtr_pcie (s : State) (n : Nat) (f : Wctr → Wctr) : (s.updCtr n f).pcie = s.pcie := rfl
@[simp] theorem State.updCtr_hif (s : State) (n : Nat) (f : Wctr → Wctr) : (s.updCtr n f).hif = s.hif := rfl
@[simp] theorem State.updCtr_i3c (s : State) (n : Nat) (f : Wctr → Wctr) : (s.updCtr n f).i3c = s.i3c := rfl
@[simp] theorem State.updCtr_mb (s : State) (n : Nat) (f : Wctr → Wctr) : (s.updCtr n f).mb = s.mb := rfl
@[simp] theorem State.updCtr_ev (s : State) (n : Nat) (f : Wctr → Wctr) : (s.updCtr n f).ev = s.ev := rfl
@[simp] theorem State.updCtr_tele (s : State) (n : Nat) (f : Wctr → Wctr) : (s.updCtr n f).tele = s.tele := rfl
@[simp] theorem State.updCtr_img (s : State) (n : Nat) (f : Wctr → Wctr) : (s.updCtr n f).img = s.img := rfl
@[simp] theorem State.updCtr_pol (s : State) (n : Nat) (f : Wctr → Wctr) : (s.updCtr n f).pol = s.pol := rfl
@[simp] theorem State.updCtr_sec (s : State) (n : Nat) (f : Wctr → Wctr) : (s.updCtr n f).sec = s.sec := rfl
@[simp] theorem State.updCtr_pat (s : State) (n : Nat) (f : Wctr → Wctr) : (s.updCtr n f).pat = s.pat := rfl
@[simp] theorem State.updCtr_rud (s : State) (n : Nat) (f : Wctr → Wctr) : (s.updCtr n f).rud = s.rud := rfl
@[simp] theorem State.updCtr_cores (s : State) (n : Nat) (f : Wctr → Wctr) : (s.updCtr n f).cores = s.cores := rfl
@[simp] theorem State.updCtr_kv (s : State) (n : Nat) (f : Wctr → Wctr) : (s.updCtr n f).kv = s.kv := rfl
@[simp] theorem State.updCtr_ep (s : State) (n : Nat) (f : Wctr → Wctr) : (s.updCtr n f).ep = s.ep := rfl
@[simp] theorem State.updCtr_lead (s : State) (n : Nat) (f : Wctr → Wctr) : (s.updCtr n f).lead = s.lead := rfl
@[simp] theorem State.updCtr_car (s : State) (n : Nat) (f : Wctr → Wctr) : (s.updCtr n f).car = s.car := rfl
@[simp] theorem State.updCtr_rt (s : State) (n : Nat) (f : Wctr → Wctr) : (s.updCtr n f).rt = s.rt := rfl
@[simp] theorem State.updCtr_ports (s : State) (n : Nat) (f : Wctr → Wctr) : (s.updCtr n f).ports = s.ports := rfl
@[simp] theorem State.updCtr_dram (s : State) (n : Nat) (f : Wctr → Wctr) : (s.updCtr n f).dram = s.dram := rfl
@[simp] theorem State.updCtr_beat (s : State) (n : Nat) (f : Wctr → Wctr) : (s.updCtr n f).beat = s.beat := rfl
@[simp] theorem State.updCtr_sup (s : State) (n : Nat) (f : Wctr → Wctr) : (s.updCtr n f).sup = s.sup := rfl
@[simp] theorem State.updCtr_pwr (s : State) (n : Nat) (f : Wctr → Wctr) : (s.updCtr n f).pwr = s.pwr := rfl
@[simp] theorem State.updCtr_twin (s : State) (n : Nat) (f : Wctr → Wctr) : (s.updCtr n f).twin = s.twin := rfl
@[simp] theorem State.updCtr_tap (s : State) (n : Nat) (f : Wctr → Wctr) : (s.updCtr n f).tap = s.tap := rfl
@[simp] theorem State.updCtr_host (s : State) (n : Nat) (f : Wctr → Wctr) : (s.updCtr n f).host = s.host := rfl

/-! ### updInst -/

@[simp] theorem State.updInst_pending (s : State) (pop use : Nat) (f : Inst → Inst) : (s.updInst pop use f).pending = s.pending := rfl
@[simp] theorem State.updInst_now (s : State) (pop use : Nat) (f : Inst → Inst) : (s.updInst pop use f).now = s.now := rfl
@[simp] theorem State.updInst_free (s : State) (pop use : Nat) (f : Inst → Inst) : (s.updInst pop use f).free = s.free := rfl
@[simp] theorem State.updInst_out (s : State) (pop use : Nat) (f : Inst → Inst) : (s.updInst pop use f).out = s.out := rfl
@[simp] theorem State.updInst_cp (s : State) (pop use : Nat) (f : Inst → Inst) : (s.updInst pop use f).cp = s.cp := rfl
@[simp] theorem State.updInst_bar (s : State) (pop use : Nat) (f : Inst → Inst) : (s.updInst pop use f).bar = s.bar := rfl
@[simp] theorem State.updInst_pcie (s : State) (pop use : Nat) (f : Inst → Inst) : (s.updInst pop use f).pcie = s.pcie := rfl
@[simp] theorem State.updInst_hif (s : State) (pop use : Nat) (f : Inst → Inst) : (s.updInst pop use f).hif = s.hif := rfl
@[simp] theorem State.updInst_i3c (s : State) (pop use : Nat) (f : Inst → Inst) : (s.updInst pop use f).i3c = s.i3c := rfl
@[simp] theorem State.updInst_mb (s : State) (pop use : Nat) (f : Inst → Inst) : (s.updInst pop use f).mb = s.mb := rfl
@[simp] theorem State.updInst_ev (s : State) (pop use : Nat) (f : Inst → Inst) : (s.updInst pop use f).ev = s.ev := rfl
@[simp] theorem State.updInst_tele (s : State) (pop use : Nat) (f : Inst → Inst) : (s.updInst pop use f).tele = s.tele := rfl
@[simp] theorem State.updInst_img (s : State) (pop use : Nat) (f : Inst → Inst) : (s.updInst pop use f).img = s.img := rfl
@[simp] theorem State.updInst_pol (s : State) (pop use : Nat) (f : Inst → Inst) : (s.updInst pop use f).pol = s.pol := rfl
@[simp] theorem State.updInst_sec (s : State) (pop use : Nat) (f : Inst → Inst) : (s.updInst pop use f).sec = s.sec := rfl
@[simp] theorem State.updInst_pat (s : State) (pop use : Nat) (f : Inst → Inst) : (s.updInst pop use f).pat = s.pat := rfl
@[simp] theorem State.updInst_rud (s : State) (pop use : Nat) (f : Inst → Inst) : (s.updInst pop use f).rud = s.rud := rfl
@[simp] theorem State.updInst_cores (s : State) (pop use : Nat) (f : Inst → Inst) : (s.updInst pop use f).cores = s.cores := rfl
@[simp] theorem State.updInst_fab (s : State) (pop use : Nat) (f : Inst → Inst) : (s.updInst pop use f).fab = s.fab := rfl
@[simp] theorem State.updInst_kv (s : State) (pop use : Nat) (f : Inst → Inst) : (s.updInst pop use f).kv = s.kv := rfl
@[simp] theorem State.updInst_ep (s : State) (pop use : Nat) (f : Inst → Inst) : (s.updInst pop use f).ep = s.ep := rfl
@[simp] theorem State.updInst_lead (s : State) (pop use : Nat) (f : Inst → Inst) : (s.updInst pop use f).lead = s.lead := rfl
@[simp] theorem State.updInst_car (s : State) (pop use : Nat) (f : Inst → Inst) : (s.updInst pop use f).car = s.car := rfl
@[simp] theorem State.updInst_ports (s : State) (pop use : Nat) (f : Inst → Inst) : (s.updInst pop use f).ports = s.ports := rfl
@[simp] theorem State.updInst_dram (s : State) (pop use : Nat) (f : Inst → Inst) : (s.updInst pop use f).dram = s.dram := rfl
@[simp] theorem State.updInst_beat (s : State) (pop use : Nat) (f : Inst → Inst) : (s.updInst pop use f).beat = s.beat := rfl
@[simp] theorem State.updInst_sup (s : State) (pop use : Nat) (f : Inst → Inst) : (s.updInst pop use f).sup = s.sup := rfl
@[simp] theorem State.updInst_pwr (s : State) (pop use : Nat) (f : Inst → Inst) : (s.updInst pop use f).pwr = s.pwr := rfl
@[simp] theorem State.updInst_twin (s : State) (pop use : Nat) (f : Inst → Inst) : (s.updInst pop use f).twin = s.twin := rfl
@[simp] theorem State.updInst_tap (s : State) (pop use : Nat) (f : Inst → Inst) : (s.updInst pop use f).tap = s.tap := rfl
@[simp] theorem State.updInst_host (s : State) (pop use : Nat) (f : Inst → Inst) : (s.updInst pop use f).host = s.host := rfl

/-! ### addErrs -/

@[simp] theorem State.addErrs_pending (s : State) (b : Nat) (es : List (Nat × Nat)) : (s.addErrs b es).pending = s.pending := rfl
@[simp] theorem State.addErrs_now (s : State) (b : Nat) (es : List (Nat × Nat)) : (s.addErrs b es).now = s.now := rfl
@[simp] theorem State.addErrs_free (s : State) (b : Nat) (es : List (Nat × Nat)) : (s.addErrs b es).free = s.free := rfl
@[simp] theorem State.addErrs_out (s : State) (b : Nat) (es : List (Nat × Nat)) : (s.addErrs b es).out = s.out := rfl
@[simp] theorem State.addErrs_cp (s : State) (b : Nat) (es : List (Nat × Nat)) : (s.addErrs b es).cp = s.cp := rfl
@[simp] theorem State.addErrs_bar (s : State) (b : Nat) (es : List (Nat × Nat)) : (s.addErrs b es).bar = s.bar := rfl
@[simp] theorem State.addErrs_pcie (s : State) (b : Nat) (es : List (Nat × Nat)) : (s.addErrs b es).pcie = s.pcie := rfl
@[simp] theorem State.addErrs_hif (s : State) (b : Nat) (es : List (Nat × Nat)) : (s.addErrs b es).hif = s.hif := rfl
@[simp] theorem State.addErrs_i3c (s : State) (b : Nat) (es : List (Nat × Nat)) : (s.addErrs b es).i3c = s.i3c := rfl
@[simp] theorem State.addErrs_mb (s : State) (b : Nat) (es : List (Nat × Nat)) : (s.addErrs b es).mb = s.mb := rfl
@[simp] theorem State.addErrs_ev (s : State) (b : Nat) (es : List (Nat × Nat)) : (s.addErrs b es).ev = s.ev := rfl
@[simp] theorem State.addErrs_tele (s : State) (b : Nat) (es : List (Nat × Nat)) : (s.addErrs b es).tele = s.tele := rfl
@[simp] theorem State.addErrs_img (s : State) (b : Nat) (es : List (Nat × Nat)) : (s.addErrs b es).img = s.img := rfl
@[simp] theorem State.addErrs_pol (s : State) (b : Nat) (es : List (Nat × Nat)) : (s.addErrs b es).pol = s.pol := rfl
@[simp] theorem State.addErrs_sec (s : State) (b : Nat) (es : List (Nat × Nat)) : (s.addErrs b es).sec = s.sec := rfl
@[simp] theorem State.addErrs_pat (s : State) (b : Nat) (es : List (Nat × Nat)) : (s.addErrs b es).pat = s.pat := rfl
@[simp] theorem State.addErrs_rud (s : State) (b : Nat) (es : List (Nat × Nat)) : (s.addErrs b es).rud = s.rud := rfl
@[simp] theorem State.addErrs_cores (s : State) (b : Nat) (es : List (Nat × Nat)) : (s.addErrs b es).cores = s.cores := rfl
@[simp] theorem State.addErrs_fab (s : State) (b : Nat) (es : List (Nat × Nat)) : (s.addErrs b es).fab = s.fab := rfl
@[simp] theorem State.addErrs_kv (s : State) (b : Nat) (es : List (Nat × Nat)) : (s.addErrs b es).kv = s.kv := rfl
@[simp] theorem State.addErrs_ep (s : State) (b : Nat) (es : List (Nat × Nat)) : (s.addErrs b es).ep = s.ep := rfl
@[simp] theorem State.addErrs_lead (s : State) (b : Nat) (es : List (Nat × Nat)) : (s.addErrs b es).lead = s.lead := rfl
@[simp] theorem State.addErrs_car (s : State) (b : Nat) (es : List (Nat × Nat)) : (s.addErrs b es).car = s.car := rfl
@[simp] theorem State.addErrs_rt (s : State) (b : Nat) (es : List (Nat × Nat)) : (s.addErrs b es).rt = s.rt := rfl
@[simp] theorem State.addErrs_ports (s : State) (b : Nat) (es : List (Nat × Nat)) : (s.addErrs b es).ports = s.ports := rfl
@[simp] theorem State.addErrs_beat (s : State) (b : Nat) (es : List (Nat × Nat)) : (s.addErrs b es).beat = s.beat := rfl
@[simp] theorem State.addErrs_sup (s : State) (b : Nat) (es : List (Nat × Nat)) : (s.addErrs b es).sup = s.sup := rfl
@[simp] theorem State.addErrs_pwr (s : State) (b : Nat) (es : List (Nat × Nat)) : (s.addErrs b es).pwr = s.pwr := rfl
@[simp] theorem State.addErrs_twin (s : State) (b : Nat) (es : List (Nat × Nat)) : (s.addErrs b es).twin = s.twin := rfl
@[simp] theorem State.addErrs_tap (s : State) (b : Nat) (es : List (Nat × Nat)) : (s.addErrs b es).tap = s.tap := rfl
@[simp] theorem State.addErrs_host (s : State) (b : Nat) (es : List (Nat × Nat)) : (s.addErrs b es).host = s.host := rfl

/-! ### writeBack -/

@[simp] theorem State.writeBack_pending (s : State) (b : Nat) : (s.writeBack b).pending = s.pending := rfl
@[simp] theorem State.writeBack_now (s : State) (b : Nat) : (s.writeBack b).now = s.now := rfl
@[simp] theorem State.writeBack_free (s : State) (b : Nat) : (s.writeBack b).free = s.free := rfl
@[simp] theorem State.writeBack_out (s : State) (b : Nat) : (s.writeBack b).out = s.out := rfl
@[simp] theorem State.writeBack_cp (s : State) (b : Nat) : (s.writeBack b).cp = s.cp := rfl
@[simp] theorem State.writeBack_bar (s : State) (b : Nat) : (s.writeBack b).bar = s.bar := rfl
@[simp] theorem State.writeBack_pcie (s : State) (b : Nat) : (s.writeBack b).pcie = s.pcie := rfl
@[simp] theorem State.writeBack_hif (s : State) (b : Nat) : (s.writeBack b).hif = s.hif := rfl
@[simp] theorem State.writeBack_i3c (s : State) (b : Nat) : (s.writeBack b).i3c = s.i3c := rfl
@[simp] theorem State.writeBack_mb (s : State) (b : Nat) : (s.writeBack b).mb = s.mb := rfl
@[simp] theorem State.writeBack_ev (s : State) (b : Nat) : (s.writeBack b).ev = s.ev := rfl
@[simp] theorem State.writeBack_tele (s : State) (b : Nat) : (s.writeBack b).tele = s.tele := rfl
@[simp] theorem State.writeBack_img (s : State) (b : Nat) : (s.writeBack b).img = s.img := rfl
@[simp] theorem State.writeBack_pol (s : State) (b : Nat) : (s.writeBack b).pol = s.pol := rfl
@[simp] theorem State.writeBack_sec (s : State) (b : Nat) : (s.writeBack b).sec = s.sec := rfl
@[simp] theorem State.writeBack_pat (s : State) (b : Nat) : (s.writeBack b).pat = s.pat := rfl
@[simp] theorem State.writeBack_rud (s : State) (b : Nat) : (s.writeBack b).rud = s.rud := rfl
@[simp] theorem State.writeBack_cores (s : State) (b : Nat) : (s.writeBack b).cores = s.cores := rfl
@[simp] theorem State.writeBack_fab (s : State) (b : Nat) : (s.writeBack b).fab = s.fab := rfl
@[simp] theorem State.writeBack_kv (s : State) (b : Nat) : (s.writeBack b).kv = s.kv := rfl
@[simp] theorem State.writeBack_ep (s : State) (b : Nat) : (s.writeBack b).ep = s.ep := rfl
@[simp] theorem State.writeBack_lead (s : State) (b : Nat) : (s.writeBack b).lead = s.lead := rfl
@[simp] theorem State.writeBack_car (s : State) (b : Nat) : (s.writeBack b).car = s.car := rfl
@[simp] theorem State.writeBack_rt (s : State) (b : Nat) : (s.writeBack b).rt = s.rt := rfl
@[simp] theorem State.writeBack_ports (s : State) (b : Nat) : (s.writeBack b).ports = s.ports := rfl
@[simp] theorem State.writeBack_beat (s : State) (b : Nat) : (s.writeBack b).beat = s.beat := rfl
@[simp] theorem State.writeBack_sup (s : State) (b : Nat) : (s.writeBack b).sup = s.sup := rfl
@[simp] theorem State.writeBack_pwr (s : State) (b : Nat) : (s.writeBack b).pwr = s.pwr := rfl
@[simp] theorem State.writeBack_twin (s : State) (b : Nat) : (s.writeBack b).twin = s.twin := rfl
@[simp] theorem State.writeBack_tap (s : State) (b : Nat) : (s.writeBack b).tap = s.tap := rfl
@[simp] theorem State.writeBack_host (s : State) (b : Nat) : (s.writeBack b).host = s.host := rfl

/-! ### rewritten -/

@[simp] theorem State.rewritten_pending (s : State) (b : Nat) : (s.rewritten b).pending = s.pending := rfl
@[simp] theorem State.rewritten_now (s : State) (b : Nat) : (s.rewritten b).now = s.now := rfl
@[simp] theorem State.rewritten_free (s : State) (b : Nat) : (s.rewritten b).free = s.free := rfl
@[simp] theorem State.rewritten_out (s : State) (b : Nat) : (s.rewritten b).out = s.out := rfl
@[simp] theorem State.rewritten_cp (s : State) (b : Nat) : (s.rewritten b).cp = s.cp := rfl
@[simp] theorem State.rewritten_bar (s : State) (b : Nat) : (s.rewritten b).bar = s.bar := rfl
@[simp] theorem State.rewritten_pcie (s : State) (b : Nat) : (s.rewritten b).pcie = s.pcie := rfl
@[simp] theorem State.rewritten_hif (s : State) (b : Nat) : (s.rewritten b).hif = s.hif := rfl
@[simp] theorem State.rewritten_i3c (s : State) (b : Nat) : (s.rewritten b).i3c = s.i3c := rfl
@[simp] theorem State.rewritten_mb (s : State) (b : Nat) : (s.rewritten b).mb = s.mb := rfl
@[simp] theorem State.rewritten_ev (s : State) (b : Nat) : (s.rewritten b).ev = s.ev := rfl
@[simp] theorem State.rewritten_tele (s : State) (b : Nat) : (s.rewritten b).tele = s.tele := rfl
@[simp] theorem State.rewritten_img (s : State) (b : Nat) : (s.rewritten b).img = s.img := rfl
@[simp] theorem State.rewritten_pol (s : State) (b : Nat) : (s.rewritten b).pol = s.pol := rfl
@[simp] theorem State.rewritten_sec (s : State) (b : Nat) : (s.rewritten b).sec = s.sec := rfl
@[simp] theorem State.rewritten_pat (s : State) (b : Nat) : (s.rewritten b).pat = s.pat := rfl
@[simp] theorem State.rewritten_rud (s : State) (b : Nat) : (s.rewritten b).rud = s.rud := rfl
@[simp] theorem State.rewritten_cores (s : State) (b : Nat) : (s.rewritten b).cores = s.cores := rfl
@[simp] theorem State.rewritten_fab (s : State) (b : Nat) : (s.rewritten b).fab = s.fab := rfl
@[simp] theorem State.rewritten_kv (s : State) (b : Nat) : (s.rewritten b).kv = s.kv := rfl
@[simp] theorem State.rewritten_ep (s : State) (b : Nat) : (s.rewritten b).ep = s.ep := rfl
@[simp] theorem State.rewritten_lead (s : State) (b : Nat) : (s.rewritten b).lead = s.lead := rfl
@[simp] theorem State.rewritten_car (s : State) (b : Nat) : (s.rewritten b).car = s.car := rfl
@[simp] theorem State.rewritten_rt (s : State) (b : Nat) : (s.rewritten b).rt = s.rt := rfl
@[simp] theorem State.rewritten_ports (s : State) (b : Nat) : (s.rewritten b).ports = s.ports := rfl
@[simp] theorem State.rewritten_beat (s : State) (b : Nat) : (s.rewritten b).beat = s.beat := rfl
@[simp] theorem State.rewritten_sup (s : State) (b : Nat) : (s.rewritten b).sup = s.sup := rfl
@[simp] theorem State.rewritten_pwr (s : State) (b : Nat) : (s.rewritten b).pwr = s.pwr := rfl
@[simp] theorem State.rewritten_twin (s : State) (b : Nat) : (s.rewritten b).twin = s.twin := rfl
@[simp] theorem State.rewritten_tap (s : State) (b : Nat) : (s.rewritten b).tap = s.tap := rfl
@[simp] theorem State.rewritten_host (s : State) (b : Nat) : (s.rewritten b).host = s.host := rfl

/-! ### beginExit -/

@[simp] theorem State.beginExit_pending (s : State) (t : Nat) : (s.beginExit t).pending = s.pending := rfl
@[simp] theorem State.beginExit_now (s : State) (t : Nat) : (s.beginExit t).now = s.now := rfl
@[simp] theorem State.beginExit_free (s : State) (t : Nat) : (s.beginExit t).free = s.free := rfl
@[simp] theorem State.beginExit_out (s : State) (t : Nat) : (s.beginExit t).out = s.out := rfl
@[simp] theorem State.beginExit_cp (s : State) (t : Nat) : (s.beginExit t).cp = { s.cp with exiting := some t } := rfl
@[simp] theorem State.beginExit_bar (s : State) (t : Nat) : (s.beginExit t).bar = s.bar := rfl
@[simp] theorem State.beginExit_pcie (s : State) (t : Nat) : (s.beginExit t).pcie = s.pcie := rfl
@[simp] theorem State.beginExit_hif (s : State) (t : Nat) : (s.beginExit t).hif = s.hif := rfl
@[simp] theorem State.beginExit_i3c (s : State) (t : Nat) : (s.beginExit t).i3c = s.i3c := rfl
@[simp] theorem State.beginExit_mb (s : State) (t : Nat) : (s.beginExit t).mb = s.mb := rfl
@[simp] theorem State.beginExit_ev (s : State) (t : Nat) : (s.beginExit t).ev = s.ev := rfl
@[simp] theorem State.beginExit_tele (s : State) (t : Nat) : (s.beginExit t).tele = s.tele := rfl
@[simp] theorem State.beginExit_img (s : State) (t : Nat) : (s.beginExit t).img = s.img := rfl
@[simp] theorem State.beginExit_pol (s : State) (t : Nat) : (s.beginExit t).pol = s.pol := rfl
@[simp] theorem State.beginExit_sec (s : State) (t : Nat) : (s.beginExit t).sec = s.sec := rfl
@[simp] theorem State.beginExit_pat (s : State) (t : Nat) : (s.beginExit t).pat = s.pat := rfl
@[simp] theorem State.beginExit_rud (s : State) (t : Nat) : (s.beginExit t).rud = s.rud := rfl
@[simp] theorem State.beginExit_cores (s : State) (t : Nat) : (s.beginExit t).cores = s.cores := rfl
@[simp] theorem State.beginExit_fab (s : State) (t : Nat) : (s.beginExit t).fab = s.fab := rfl
@[simp] theorem State.beginExit_kv (s : State) (t : Nat) : (s.beginExit t).kv = s.kv := rfl
@[simp] theorem State.beginExit_ep (s : State) (t : Nat) : (s.beginExit t).ep = s.ep := rfl
@[simp] theorem State.beginExit_lead (s : State) (t : Nat) : (s.beginExit t).lead = s.lead := rfl
@[simp] theorem State.beginExit_car (s : State) (t : Nat) : (s.beginExit t).car = s.car := rfl
@[simp] theorem State.beginExit_rt (s : State) (t : Nat) : (s.beginExit t).rt = s.rt := rfl
@[simp] theorem State.beginExit_ports (s : State) (t : Nat) : (s.beginExit t).ports = s.ports := rfl
@[simp] theorem State.beginExit_dram (s : State) (t : Nat) : (s.beginExit t).dram = s.dram := rfl
@[simp] theorem State.beginExit_beat (s : State) (t : Nat) : (s.beginExit t).beat = s.beat := rfl
@[simp] theorem State.beginExit_sup (s : State) (t : Nat) : (s.beginExit t).sup = s.sup := rfl
@[simp] theorem State.beginExit_pwr (s : State) (t : Nat) : (s.beginExit t).pwr = s.pwr := rfl
@[simp] theorem State.beginExit_twin (s : State) (t : Nat) : (s.beginExit t).twin = s.twin := rfl
@[simp] theorem State.beginExit_tap (s : State) (t : Nat) : (s.beginExit t).tap = s.tap := rfl
@[simp] theorem State.beginExit_host (s : State) (t : Nat) : (s.beginExit t).host = s.host := rfl

/-! ### setMap -/

@[simp] theorem State.setMap_pending (s : State) (seq page : Nat) (r : Option Nat) : (s.setMap seq page r).pending = s.pending := rfl
@[simp] theorem State.setMap_now (s : State) (seq page : Nat) (r : Option Nat) : (s.setMap seq page r).now = s.now := rfl
@[simp] theorem State.setMap_free (s : State) (seq page : Nat) (r : Option Nat) : (s.setMap seq page r).free = s.free := rfl
@[simp] theorem State.setMap_out (s : State) (seq page : Nat) (r : Option Nat) : (s.setMap seq page r).out = s.out := rfl
@[simp] theorem State.setMap_cp (s : State) (seq page : Nat) (r : Option Nat) : (s.setMap seq page r).cp = s.cp := rfl
@[simp] theorem State.setMap_bar (s : State) (seq page : Nat) (r : Option Nat) : (s.setMap seq page r).bar = s.bar := rfl
@[simp] theorem State.setMap_pcie (s : State) (seq page : Nat) (r : Option Nat) : (s.setMap seq page r).pcie = s.pcie := rfl
@[simp] theorem State.setMap_hif (s : State) (seq page : Nat) (r : Option Nat) : (s.setMap seq page r).hif = s.hif := rfl
@[simp] theorem State.setMap_i3c (s : State) (seq page : Nat) (r : Option Nat) : (s.setMap seq page r).i3c = s.i3c := rfl
@[simp] theorem State.setMap_mb (s : State) (seq page : Nat) (r : Option Nat) : (s.setMap seq page r).mb = s.mb := rfl
@[simp] theorem State.setMap_ev (s : State) (seq page : Nat) (r : Option Nat) : (s.setMap seq page r).ev = s.ev := rfl
@[simp] theorem State.setMap_tele (s : State) (seq page : Nat) (r : Option Nat) : (s.setMap seq page r).tele = s.tele := rfl
@[simp] theorem State.setMap_img (s : State) (seq page : Nat) (r : Option Nat) : (s.setMap seq page r).img = s.img := rfl
@[simp] theorem State.setMap_pol (s : State) (seq page : Nat) (r : Option Nat) : (s.setMap seq page r).pol = s.pol := rfl
@[simp] theorem State.setMap_sec (s : State) (seq page : Nat) (r : Option Nat) : (s.setMap seq page r).sec = s.sec := rfl
@[simp] theorem State.setMap_pat (s : State) (seq page : Nat) (r : Option Nat) : (s.setMap seq page r).pat = s.pat := rfl
@[simp] theorem State.setMap_rud (s : State) (seq page : Nat) (r : Option Nat) : (s.setMap seq page r).rud = s.rud := rfl
@[simp] theorem State.setMap_cores (s : State) (seq page : Nat) (r : Option Nat) : (s.setMap seq page r).cores = s.cores := rfl
@[simp] theorem State.setMap_fab (s : State) (seq page : Nat) (r : Option Nat) : (s.setMap seq page r).fab = s.fab := rfl
@[simp] theorem State.setMap_ep (s : State) (seq page : Nat) (r : Option Nat) : (s.setMap seq page r).ep = s.ep := rfl
@[simp] theorem State.setMap_lead (s : State) (seq page : Nat) (r : Option Nat) : (s.setMap seq page r).lead = s.lead := rfl
@[simp] theorem State.setMap_car (s : State) (seq page : Nat) (r : Option Nat) : (s.setMap seq page r).car = s.car := rfl
@[simp] theorem State.setMap_rt (s : State) (seq page : Nat) (r : Option Nat) : (s.setMap seq page r).rt = s.rt := rfl
@[simp] theorem State.setMap_ports (s : State) (seq page : Nat) (r : Option Nat) : (s.setMap seq page r).ports = s.ports := rfl
@[simp] theorem State.setMap_dram (s : State) (seq page : Nat) (r : Option Nat) : (s.setMap seq page r).dram = s.dram := rfl
@[simp] theorem State.setMap_beat (s : State) (seq page : Nat) (r : Option Nat) : (s.setMap seq page r).beat = s.beat := rfl
@[simp] theorem State.setMap_sup (s : State) (seq page : Nat) (r : Option Nat) : (s.setMap seq page r).sup = s.sup := rfl
@[simp] theorem State.setMap_pwr (s : State) (seq page : Nat) (r : Option Nat) : (s.setMap seq page r).pwr = s.pwr := rfl
@[simp] theorem State.setMap_twin (s : State) (seq page : Nat) (r : Option Nat) : (s.setMap seq page r).twin = s.twin := rfl
@[simp] theorem State.setMap_tap (s : State) (seq page : Nat) (r : Option Nat) : (s.setMap seq page r).tap = s.tap := rfl
@[simp] theorem State.setMap_host (s : State) (seq page : Nat) (r : Option Nat) : (s.setMap seq page r).host = s.host := rfl

/-! ### startCopy -/

@[simp] theorem State.startCopy_pending (s : State) (r : Nat) : (s.startCopy r).pending = s.pending := rfl
@[simp] theorem State.startCopy_now (s : State) (r : Nat) : (s.startCopy r).now = s.now := rfl
@[simp] theorem State.startCopy_free (s : State) (r : Nat) : (s.startCopy r).free = s.free := rfl
@[simp] theorem State.startCopy_out (s : State) (r : Nat) : (s.startCopy r).out = s.out := rfl
@[simp] theorem State.startCopy_cp (s : State) (r : Nat) : (s.startCopy r).cp = s.cp := rfl
@[simp] theorem State.startCopy_bar (s : State) (r : Nat) : (s.startCopy r).bar = s.bar := rfl
@[simp] theorem State.startCopy_pcie (s : State) (r : Nat) : (s.startCopy r).pcie = s.pcie := rfl
@[simp] theorem State.startCopy_hif (s : State) (r : Nat) : (s.startCopy r).hif = s.hif := rfl
@[simp] theorem State.startCopy_i3c (s : State) (r : Nat) : (s.startCopy r).i3c = s.i3c := rfl
@[simp] theorem State.startCopy_mb (s : State) (r : Nat) : (s.startCopy r).mb = s.mb := rfl
@[simp] theorem State.startCopy_ev (s : State) (r : Nat) : (s.startCopy r).ev = s.ev := rfl
@[simp] theorem State.startCopy_tele (s : State) (r : Nat) : (s.startCopy r).tele = s.tele := rfl
@[simp] theorem State.startCopy_img (s : State) (r : Nat) : (s.startCopy r).img = s.img := rfl
@[simp] theorem State.startCopy_pol (s : State) (r : Nat) : (s.startCopy r).pol = s.pol := rfl
@[simp] theorem State.startCopy_sec (s : State) (r : Nat) : (s.startCopy r).sec = s.sec := rfl
@[simp] theorem State.startCopy_pat (s : State) (r : Nat) : (s.startCopy r).pat = s.pat := rfl
@[simp] theorem State.startCopy_rud (s : State) (r : Nat) : (s.startCopy r).rud = s.rud := rfl
@[simp] theorem State.startCopy_cores (s : State) (r : Nat) : (s.startCopy r).cores = s.cores := rfl
@[simp] theorem State.startCopy_fab (s : State) (r : Nat) : (s.startCopy r).fab = s.fab := rfl
@[simp] theorem State.startCopy_ep (s : State) (r : Nat) : (s.startCopy r).ep = s.ep := rfl
@[simp] theorem State.startCopy_lead (s : State) (r : Nat) : (s.startCopy r).lead = s.lead := rfl
@[simp] theorem State.startCopy_car (s : State) (r : Nat) : (s.startCopy r).car = s.car := rfl
@[simp] theorem State.startCopy_rt (s : State) (r : Nat) : (s.startCopy r).rt = s.rt := rfl
@[simp] theorem State.startCopy_ports (s : State) (r : Nat) : (s.startCopy r).ports = s.ports := rfl
@[simp] theorem State.startCopy_dram (s : State) (r : Nat) : (s.startCopy r).dram = s.dram := rfl
@[simp] theorem State.startCopy_beat (s : State) (r : Nat) : (s.startCopy r).beat = s.beat := rfl
@[simp] theorem State.startCopy_sup (s : State) (r : Nat) : (s.startCopy r).sup = s.sup := rfl
@[simp] theorem State.startCopy_pwr (s : State) (r : Nat) : (s.startCopy r).pwr = s.pwr := rfl
@[simp] theorem State.startCopy_twin (s : State) (r : Nat) : (s.startCopy r).twin = s.twin := rfl
@[simp] theorem State.startCopy_tap (s : State) (r : Nat) : (s.startCopy r).tap = s.tap := rfl
@[simp] theorem State.startCopy_host (s : State) (r : Nat) : (s.startCopy r).host = s.host := rfl

/-! ### addHalt -/

@[simp] theorem State.addHalt_pending (s : State) (ns : Nat) : (s.addHalt ns).pending = s.pending := rfl
@[simp] theorem State.addHalt_now (s : State) (ns : Nat) : (s.addHalt ns).now = s.now := rfl
@[simp] theorem State.addHalt_free (s : State) (ns : Nat) : (s.addHalt ns).free = s.free := rfl
@[simp] theorem State.addHalt_out (s : State) (ns : Nat) : (s.addHalt ns).out = s.out := rfl
@[simp] theorem State.addHalt_cp (s : State) (ns : Nat) : (s.addHalt ns).cp = s.cp := rfl
@[simp] theorem State.addHalt_bar (s : State) (ns : Nat) : (s.addHalt ns).bar = s.bar := rfl
@[simp] theorem State.addHalt_pcie (s : State) (ns : Nat) : (s.addHalt ns).pcie = s.pcie := rfl
@[simp] theorem State.addHalt_hif (s : State) (ns : Nat) : (s.addHalt ns).hif = s.hif := rfl
@[simp] theorem State.addHalt_i3c (s : State) (ns : Nat) : (s.addHalt ns).i3c = s.i3c := rfl
@[simp] theorem State.addHalt_mb (s : State) (ns : Nat) : (s.addHalt ns).mb = s.mb := rfl
@[simp] theorem State.addHalt_ev (s : State) (ns : Nat) : (s.addHalt ns).ev = s.ev := rfl
@[simp] theorem State.addHalt_tele (s : State) (ns : Nat) : (s.addHalt ns).tele = s.tele := rfl
@[simp] theorem State.addHalt_img (s : State) (ns : Nat) : (s.addHalt ns).img = s.img := rfl
@[simp] theorem State.addHalt_pol (s : State) (ns : Nat) : (s.addHalt ns).pol = s.pol := rfl
@[simp] theorem State.addHalt_sec (s : State) (ns : Nat) : (s.addHalt ns).sec = s.sec := rfl
@[simp] theorem State.addHalt_pat (s : State) (ns : Nat) : (s.addHalt ns).pat = s.pat := rfl
@[simp] theorem State.addHalt_rud (s : State) (ns : Nat) : (s.addHalt ns).rud = s.rud := rfl
@[simp] theorem State.addHalt_cores (s : State) (ns : Nat) : (s.addHalt ns).cores = s.cores := rfl
@[simp] theorem State.addHalt_fab (s : State) (ns : Nat) : (s.addHalt ns).fab = s.fab := rfl
@[simp] theorem State.addHalt_kv (s : State) (ns : Nat) : (s.addHalt ns).kv = s.kv := rfl
@[simp] theorem State.addHalt_ep (s : State) (ns : Nat) : (s.addHalt ns).ep = s.ep := rfl
@[simp] theorem State.addHalt_lead (s : State) (ns : Nat) : (s.addHalt ns).lead = s.lead := rfl
@[simp] theorem State.addHalt_rt (s : State) (ns : Nat) : (s.addHalt ns).rt = s.rt := rfl
@[simp] theorem State.addHalt_ports (s : State) (ns : Nat) : (s.addHalt ns).ports = s.ports := rfl
@[simp] theorem State.addHalt_dram (s : State) (ns : Nat) : (s.addHalt ns).dram = s.dram := rfl
@[simp] theorem State.addHalt_beat (s : State) (ns : Nat) : (s.addHalt ns).beat = s.beat := rfl
@[simp] theorem State.addHalt_sup (s : State) (ns : Nat) : (s.addHalt ns).sup = s.sup := rfl
@[simp] theorem State.addHalt_pwr (s : State) (ns : Nat) : (s.addHalt ns).pwr = s.pwr := rfl
@[simp] theorem State.addHalt_twin (s : State) (ns : Nat) : (s.addHalt ns).twin = s.twin := rfl
@[simp] theorem State.addHalt_tap (s : State) (ns : Nat) : (s.addHalt ns).tap = s.tap := rfl
@[simp] theorem State.addHalt_host (s : State) (ns : Nat) : (s.addHalt ns).host = s.host := rfl

/-! ### clearLate -/

@[simp] theorem State.clearLate_pending (s : State) : s.clearLate.pending = s.pending := rfl
@[simp] theorem State.clearLate_now (s : State) : s.clearLate.now = s.now := rfl
@[simp] theorem State.clearLate_free (s : State) : s.clearLate.free = s.free := rfl
@[simp] theorem State.clearLate_out (s : State) : s.clearLate.out = s.out := rfl
@[simp] theorem State.clearLate_cp (s : State) : s.clearLate.cp = s.cp := rfl
@[simp] theorem State.clearLate_bar (s : State) : s.clearLate.bar = s.bar := rfl
@[simp] theorem State.clearLate_pcie (s : State) : s.clearLate.pcie = s.pcie := rfl
@[simp] theorem State.clearLate_hif (s : State) : s.clearLate.hif = s.hif := rfl
@[simp] theorem State.clearLate_i3c (s : State) : s.clearLate.i3c = s.i3c := rfl
@[simp] theorem State.clearLate_mb (s : State) : s.clearLate.mb = s.mb := rfl
@[simp] theorem State.clearLate_ev (s : State) : s.clearLate.ev = s.ev := rfl
@[simp] theorem State.clearLate_tele (s : State) : s.clearLate.tele = s.tele := rfl
@[simp] theorem State.clearLate_img (s : State) : s.clearLate.img = s.img := rfl
@[simp] theorem State.clearLate_pol (s : State) : s.clearLate.pol = s.pol := rfl
@[simp] theorem State.clearLate_sec (s : State) : s.clearLate.sec = s.sec := rfl
@[simp] theorem State.clearLate_pat (s : State) : s.clearLate.pat = s.pat := rfl
@[simp] theorem State.clearLate_rud (s : State) : s.clearLate.rud = s.rud := rfl
@[simp] theorem State.clearLate_cores (s : State) : s.clearLate.cores = s.cores := rfl
@[simp] theorem State.clearLate_fab (s : State) : s.clearLate.fab = s.fab := rfl
@[simp] theorem State.clearLate_kv (s : State) : s.clearLate.kv = s.kv := rfl
@[simp] theorem State.clearLate_ep (s : State) : s.clearLate.ep = s.ep := rfl
@[simp] theorem State.clearLate_lead (s : State) : s.clearLate.lead = s.lead := rfl
@[simp] theorem State.clearLate_rt (s : State) : s.clearLate.rt = s.rt := rfl
@[simp] theorem State.clearLate_ports (s : State) : s.clearLate.ports = s.ports := rfl
@[simp] theorem State.clearLate_dram (s : State) : s.clearLate.dram = s.dram := rfl
@[simp] theorem State.clearLate_beat (s : State) : s.clearLate.beat = s.beat := rfl
@[simp] theorem State.clearLate_sup (s : State) : s.clearLate.sup = s.sup := rfl
@[simp] theorem State.clearLate_pwr (s : State) : s.clearLate.pwr = s.pwr := rfl
@[simp] theorem State.clearLate_twin (s : State) : s.clearLate.twin = s.twin := rfl
@[simp] theorem State.clearLate_tap (s : State) : s.clearLate.tap = s.tap := rfl
@[simp] theorem State.clearLate_host (s : State) : s.clearLate.host = s.host := rfl

/-! ### originated -/

@[simp] theorem State.originated_pending (s : State) (n : Nat) : (s.originated n).pending = s.pending := rfl
@[simp] theorem State.originated_now (s : State) (n : Nat) : (s.originated n).now = s.now := rfl
@[simp] theorem State.originated_free (s : State) (n : Nat) : (s.originated n).free = s.free := rfl
@[simp] theorem State.originated_out (s : State) (n : Nat) : (s.originated n).out = s.out := rfl
@[simp] theorem State.originated_cp (s : State) (n : Nat) : (s.originated n).cp = s.cp := rfl
@[simp] theorem State.originated_bar (s : State) (n : Nat) : (s.originated n).bar = s.bar := rfl
@[simp] theorem State.originated_pcie (s : State) (n : Nat) : (s.originated n).pcie = s.pcie := rfl
@[simp] theorem State.originated_hif (s : State) (n : Nat) : (s.originated n).hif = s.hif := rfl
@[simp] theorem State.originated_i3c (s : State) (n : Nat) : (s.originated n).i3c = s.i3c := rfl
@[simp] theorem State.originated_mb (s : State) (n : Nat) : (s.originated n).mb = s.mb := rfl
@[simp] theorem State.originated_ev (s : State) (n : Nat) : (s.originated n).ev = s.ev := rfl
@[simp] theorem State.originated_tele (s : State) (n : Nat) : (s.originated n).tele = s.tele := rfl
@[simp] theorem State.originated_img (s : State) (n : Nat) : (s.originated n).img = s.img := rfl
@[simp] theorem State.originated_pol (s : State) (n : Nat) : (s.originated n).pol = s.pol := rfl
@[simp] theorem State.originated_sec (s : State) (n : Nat) : (s.originated n).sec = s.sec := rfl
@[simp] theorem State.originated_pat (s : State) (n : Nat) : (s.originated n).pat = s.pat := rfl
@[simp] theorem State.originated_rud (s : State) (n : Nat) : (s.originated n).rud = s.rud := rfl
@[simp] theorem State.originated_cores (s : State) (n : Nat) : (s.originated n).cores = s.cores := rfl
@[simp] theorem State.originated_fab (s : State) (n : Nat) : (s.originated n).fab = s.fab := rfl
@[simp] theorem State.originated_kv (s : State) (n : Nat) : (s.originated n).kv = s.kv := rfl
@[simp] theorem State.originated_lead (s : State) (n : Nat) : (s.originated n).lead = s.lead := rfl
@[simp] theorem State.originated_car (s : State) (n : Nat) : (s.originated n).car = s.car := rfl
@[simp] theorem State.originated_rt (s : State) (n : Nat) : (s.originated n).rt = s.rt := rfl
@[simp] theorem State.originated_ports (s : State) (n : Nat) : (s.originated n).ports = s.ports := rfl
@[simp] theorem State.originated_dram (s : State) (n : Nat) : (s.originated n).dram = s.dram := rfl
@[simp] theorem State.originated_beat (s : State) (n : Nat) : (s.originated n).beat = s.beat := rfl
@[simp] theorem State.originated_sup (s : State) (n : Nat) : (s.originated n).sup = s.sup := rfl
@[simp] theorem State.originated_pwr (s : State) (n : Nat) : (s.originated n).pwr = s.pwr := rfl
@[simp] theorem State.originated_twin (s : State) (n : Nat) : (s.originated n).twin = s.twin := rfl
@[simp] theorem State.originated_tap (s : State) (n : Nat) : (s.originated n).tap = s.tap := rfl
@[simp] theorem State.originated_host (s : State) (n : Nat) : (s.originated n).host = s.host := rfl

/-! ### shiftBeat -/

@[simp] theorem State.shiftBeat_pending (s : State) (l n : Nat) : (s.shiftBeat l n).pending = s.pending := by unfold State.shiftBeat; rfl
@[simp] theorem State.shiftBeat_now (s : State) (l n : Nat) : (s.shiftBeat l n).now = s.now := by unfold State.shiftBeat; rfl
@[simp] theorem State.shiftBeat_free (s : State) (l n : Nat) : (s.shiftBeat l n).free = s.free := by unfold State.shiftBeat; rfl
@[simp] theorem State.shiftBeat_out (s : State) (l n : Nat) : (s.shiftBeat l n).out = s.out := by unfold State.shiftBeat; rfl
@[simp] theorem State.shiftBeat_cp (s : State) (l n : Nat) : (s.shiftBeat l n).cp = s.cp := by unfold State.shiftBeat; rfl
@[simp] theorem State.shiftBeat_bar (s : State) (l n : Nat) : (s.shiftBeat l n).bar = s.bar := by unfold State.shiftBeat; rfl
@[simp] theorem State.shiftBeat_pcie (s : State) (l n : Nat) : (s.shiftBeat l n).pcie = s.pcie := by unfold State.shiftBeat; rfl
@[simp] theorem State.shiftBeat_hif (s : State) (l n : Nat) : (s.shiftBeat l n).hif = s.hif := by unfold State.shiftBeat; rfl
@[simp] theorem State.shiftBeat_i3c (s : State) (l n : Nat) : (s.shiftBeat l n).i3c = s.i3c := by unfold State.shiftBeat; rfl
@[simp] theorem State.shiftBeat_mb (s : State) (l n : Nat) : (s.shiftBeat l n).mb = s.mb := by unfold State.shiftBeat; rfl
@[simp] theorem State.shiftBeat_ev (s : State) (l n : Nat) : (s.shiftBeat l n).ev = s.ev := by unfold State.shiftBeat; rfl
@[simp] theorem State.shiftBeat_tele (s : State) (l n : Nat) : (s.shiftBeat l n).tele = s.tele := by unfold State.shiftBeat; rfl
@[simp] theorem State.shiftBeat_img (s : State) (l n : Nat) : (s.shiftBeat l n).img = s.img := by unfold State.shiftBeat; rfl
@[simp] theorem State.shiftBeat_pol (s : State) (l n : Nat) : (s.shiftBeat l n).pol = s.pol := by unfold State.shiftBeat; rfl
@[simp] theorem State.shiftBeat_sec (s : State) (l n : Nat) : (s.shiftBeat l n).sec = s.sec := by unfold State.shiftBeat; rfl
@[simp] theorem State.shiftBeat_pat (s : State) (l n : Nat) : (s.shiftBeat l n).pat = s.pat := by unfold State.shiftBeat; rfl
@[simp] theorem State.shiftBeat_rud (s : State) (l n : Nat) : (s.shiftBeat l n).rud = s.rud := by unfold State.shiftBeat; rfl
@[simp] theorem State.shiftBeat_cores (s : State) (l n : Nat) : (s.shiftBeat l n).cores = s.cores := by unfold State.shiftBeat; rfl
@[simp] theorem State.shiftBeat_fab (s : State) (l n : Nat) : (s.shiftBeat l n).fab = s.fab := by unfold State.shiftBeat; rfl
@[simp] theorem State.shiftBeat_kv (s : State) (l n : Nat) : (s.shiftBeat l n).kv = s.kv := by unfold State.shiftBeat; rfl
@[simp] theorem State.shiftBeat_ep (s : State) (l n : Nat) : (s.shiftBeat l n).ep = s.ep := by unfold State.shiftBeat; rfl
@[simp] theorem State.shiftBeat_lead (s : State) (l n : Nat) : (s.shiftBeat l n).lead = s.lead := by unfold State.shiftBeat; rfl
@[simp] theorem State.shiftBeat_car (s : State) (l n : Nat) : (s.shiftBeat l n).car = s.car := by unfold State.shiftBeat; rfl
@[simp] theorem State.shiftBeat_rt (s : State) (l n : Nat) : (s.shiftBeat l n).rt = s.rt := by unfold State.shiftBeat; rfl
@[simp] theorem State.shiftBeat_ports (s : State) (l n : Nat) : (s.shiftBeat l n).ports = s.ports := by unfold State.shiftBeat; rfl
@[simp] theorem State.shiftBeat_dram (s : State) (l n : Nat) : (s.shiftBeat l n).dram = s.dram := by unfold State.shiftBeat; rfl
@[simp] theorem State.shiftBeat_sup (s : State) (l n : Nat) : (s.shiftBeat l n).sup = s.sup := by unfold State.shiftBeat; rfl
@[simp] theorem State.shiftBeat_pwr (s : State) (l n : Nat) : (s.shiftBeat l n).pwr = s.pwr := by unfold State.shiftBeat; rfl
@[simp] theorem State.shiftBeat_twin (s : State) (l n : Nat) : (s.shiftBeat l n).twin = s.twin := by unfold State.shiftBeat; rfl
@[simp] theorem State.shiftBeat_tap (s : State) (l n : Nat) : (s.shiftBeat l n).tap = s.tap := by unfold State.shiftBeat; rfl
@[simp] theorem State.shiftBeat_host (s : State) (l n : Nat) : (s.shiftBeat l n).host = s.host := by unfold State.shiftBeat; rfl

/-! ### selectRegion -/

@[simp] theorem State.selectRegion_pending (s : State) : s.selectRegion.pending = s.pending := rfl
@[simp] theorem State.selectRegion_now (s : State) : s.selectRegion.now = s.now := rfl
@[simp] theorem State.selectRegion_free (s : State) : s.selectRegion.free = s.free := rfl
@[simp] theorem State.selectRegion_out (s : State) : s.selectRegion.out = s.out := rfl
@[simp] theorem State.selectRegion_cp (s : State) : s.selectRegion.cp = s.cp := rfl
@[simp] theorem State.selectRegion_bar (s : State) : s.selectRegion.bar = s.bar := rfl
@[simp] theorem State.selectRegion_pcie (s : State) : s.selectRegion.pcie = s.pcie := rfl
@[simp] theorem State.selectRegion_i3c (s : State) : s.selectRegion.i3c = s.i3c := rfl
@[simp] theorem State.selectRegion_mb (s : State) : s.selectRegion.mb = s.mb := rfl
@[simp] theorem State.selectRegion_ev (s : State) : s.selectRegion.ev = s.ev := rfl
@[simp] theorem State.selectRegion_tele (s : State) : s.selectRegion.tele = s.tele := rfl
@[simp] theorem State.selectRegion_img (s : State) : s.selectRegion.img = s.img := rfl
@[simp] theorem State.selectRegion_pol (s : State) : s.selectRegion.pol = s.pol := rfl
@[simp] theorem State.selectRegion_sec (s : State) : s.selectRegion.sec = s.sec := rfl
@[simp] theorem State.selectRegion_pat (s : State) : s.selectRegion.pat = s.pat := rfl
@[simp] theorem State.selectRegion_rud (s : State) : s.selectRegion.rud = s.rud := rfl
@[simp] theorem State.selectRegion_cores (s : State) : s.selectRegion.cores = s.cores := rfl
@[simp] theorem State.selectRegion_fab (s : State) : s.selectRegion.fab = s.fab := rfl
@[simp] theorem State.selectRegion_kv (s : State) : s.selectRegion.kv = s.kv := rfl
@[simp] theorem State.selectRegion_ep (s : State) : s.selectRegion.ep = s.ep := rfl
@[simp] theorem State.selectRegion_lead (s : State) : s.selectRegion.lead = s.lead := rfl
@[simp] theorem State.selectRegion_car (s : State) : s.selectRegion.car = s.car := rfl
@[simp] theorem State.selectRegion_rt (s : State) : s.selectRegion.rt = s.rt := rfl
@[simp] theorem State.selectRegion_ports (s : State) : s.selectRegion.ports = s.ports := rfl
@[simp] theorem State.selectRegion_dram (s : State) : s.selectRegion.dram = s.dram := rfl
@[simp] theorem State.selectRegion_beat (s : State) : s.selectRegion.beat = s.beat := rfl
@[simp] theorem State.selectRegion_sup (s : State) : s.selectRegion.sup = s.sup := rfl
@[simp] theorem State.selectRegion_pwr (s : State) : s.selectRegion.pwr = s.pwr := rfl
@[simp] theorem State.selectRegion_twin (s : State) : s.selectRegion.twin = s.twin := rfl
@[simp] theorem State.selectRegion_tap (s : State) : s.selectRegion.tap = s.tap := rfl
@[simp] theorem State.selectRegion_host (s : State) : s.selectRegion.host = s.host := rfl

/-! ### recordTime -/

@[simp] theorem State.recordTime_pending (s : State) : s.recordTime.pending = s.pending := by
  simp only [State.recordTime]
@[simp] theorem State.recordTime_free (s : State) : s.recordTime.free = s.free := by
  simp only [State.recordTime]
@[simp] theorem State.recordTime_out (s : State) : s.recordTime.out = s.out := by
  simp only [State.recordTime]
@[simp] theorem State.recordTime_cp (s : State) : s.recordTime.cp = s.cp := by
  simp only [State.recordTime]
@[simp] theorem State.recordTime_bar (s : State) : s.recordTime.bar = s.bar := by
  simp only [State.recordTime]
@[simp] theorem State.recordTime_pcie (s : State) : s.recordTime.pcie = s.pcie := by
  simp only [State.recordTime]
@[simp] theorem State.recordTime_hif (s : State) : s.recordTime.hif = s.hif := by
  simp only [State.recordTime]
@[simp] theorem State.recordTime_i3c (s : State) : s.recordTime.i3c = s.i3c := by
  simp only [State.recordTime]
@[simp] theorem State.recordTime_mb (s : State) : s.recordTime.mb = s.mb := by
  simp only [State.recordTime]
@[simp] theorem State.recordTime_ev (s : State) : s.recordTime.ev = s.ev := by
  simp only [State.recordTime]
@[simp] theorem State.recordTime_tele (s : State) : s.recordTime.tele = s.tele := by
  simp only [State.recordTime]
@[simp] theorem State.recordTime_pol (s : State) : s.recordTime.pol = s.pol := by
  simp only [State.recordTime]
@[simp] theorem State.recordTime_sec (s : State) : s.recordTime.sec = s.sec := by
  simp only [State.recordTime]
@[simp] theorem State.recordTime_pat (s : State) : s.recordTime.pat = s.pat := by
  simp only [State.recordTime]
@[simp] theorem State.recordTime_rud (s : State) : s.recordTime.rud = s.rud := by
  simp only [State.recordTime]
@[simp] theorem State.recordTime_cores (s : State) : s.recordTime.cores = s.cores := by
  simp only [State.recordTime]
@[simp] theorem State.recordTime_fab (s : State) : s.recordTime.fab = s.fab := by
  simp only [State.recordTime]
@[simp] theorem State.recordTime_kv (s : State) : s.recordTime.kv = s.kv := by
  simp only [State.recordTime]
@[simp] theorem State.recordTime_ep (s : State) : s.recordTime.ep = s.ep := by
  simp only [State.recordTime]
@[simp] theorem State.recordTime_lead (s : State) : s.recordTime.lead = s.lead := by
  simp only [State.recordTime]
@[simp] theorem State.recordTime_car (s : State) : s.recordTime.car = s.car := by
  simp only [State.recordTime]
@[simp] theorem State.recordTime_rt (s : State) : s.recordTime.rt = s.rt := by
  simp only [State.recordTime]
@[simp] theorem State.recordTime_ports (s : State) : s.recordTime.ports = s.ports := by
  simp only [State.recordTime]
@[simp] theorem State.recordTime_dram (s : State) : s.recordTime.dram = s.dram := by
  simp only [State.recordTime]
@[simp] theorem State.recordTime_beat (s : State) : s.recordTime.beat = s.beat := by
  simp only [State.recordTime]
@[simp] theorem State.recordTime_sup (s : State) : s.recordTime.sup = s.sup := by
  simp only [State.recordTime]
@[simp] theorem State.recordTime_pwr (s : State) : s.recordTime.pwr = s.pwr := by
  simp only [State.recordTime]
@[simp] theorem State.recordTime_twin (s : State) : s.recordTime.twin = s.twin := by
  simp only [State.recordTime]
@[simp] theorem State.recordTime_tap (s : State) : s.recordTime.tap = s.tap := by
  simp only [State.recordTime]
@[simp] theorem State.recordTime_host (s : State) : s.recordTime.host = s.host := by
  simp only [State.recordTime]

/-! ### enterRec -/

@[simp] theorem State.enterRec_pending (s : State) (r : JRec) (k : Nat) : (s.enterRec r k).pending = s.pending := rfl
@[simp] theorem State.enterRec_now (s : State) (r : JRec) (k : Nat) : (s.enterRec r k).now = s.now := rfl
@[simp] theorem State.enterRec_free (s : State) (r : JRec) (k : Nat) : (s.enterRec r k).free = s.free := rfl
@[simp] theorem State.enterRec_out (s : State) (r : JRec) (k : Nat) : (s.enterRec r k).out = s.out := rfl
@[simp] theorem State.enterRec_cp (s : State) (r : JRec) (k : Nat) : (s.enterRec r k).cp = s.cp := rfl
@[simp] theorem State.enterRec_bar (s : State) (r : JRec) (k : Nat) : (s.enterRec r k).bar = s.bar := rfl
@[simp] theorem State.enterRec_pcie (s : State) (r : JRec) (k : Nat) : (s.enterRec r k).pcie = s.pcie := rfl
@[simp] theorem State.enterRec_hif (s : State) (r : JRec) (k : Nat) : (s.enterRec r k).hif = s.hif := rfl
@[simp] theorem State.enterRec_i3c (s : State) (r : JRec) (k : Nat) : (s.enterRec r k).i3c = s.i3c := rfl
@[simp] theorem State.enterRec_mb (s : State) (r : JRec) (k : Nat) : (s.enterRec r k).mb = s.mb := rfl
@[simp] theorem State.enterRec_ev (s : State) (r : JRec) (k : Nat) : (s.enterRec r k).ev = s.ev := rfl
@[simp] theorem State.enterRec_tele (s : State) (r : JRec) (k : Nat) : (s.enterRec r k).tele = s.tele := rfl
@[simp] theorem State.enterRec_pol (s : State) (r : JRec) (k : Nat) : (s.enterRec r k).pol = s.pol := rfl
@[simp] theorem State.enterRec_sec (s : State) (r : JRec) (k : Nat) : (s.enterRec r k).sec = s.sec := rfl
@[simp] theorem State.enterRec_pat (s : State) (r : JRec) (k : Nat) : (s.enterRec r k).pat = s.pat := rfl
@[simp] theorem State.enterRec_rud (s : State) (r : JRec) (k : Nat) : (s.enterRec r k).rud = s.rud := rfl
@[simp] theorem State.enterRec_cores (s : State) (r : JRec) (k : Nat) : (s.enterRec r k).cores = s.cores := rfl
@[simp] theorem State.enterRec_fab (s : State) (r : JRec) (k : Nat) : (s.enterRec r k).fab = s.fab := rfl
@[simp] theorem State.enterRec_kv (s : State) (r : JRec) (k : Nat) : (s.enterRec r k).kv = s.kv := rfl
@[simp] theorem State.enterRec_ep (s : State) (r : JRec) (k : Nat) : (s.enterRec r k).ep = s.ep := rfl
@[simp] theorem State.enterRec_lead (s : State) (r : JRec) (k : Nat) : (s.enterRec r k).lead = s.lead := rfl
@[simp] theorem State.enterRec_car (s : State) (r : JRec) (k : Nat) : (s.enterRec r k).car = s.car := rfl
@[simp] theorem State.enterRec_rt (s : State) (r : JRec) (k : Nat) : (s.enterRec r k).rt = s.rt := rfl
@[simp] theorem State.enterRec_ports (s : State) (r : JRec) (k : Nat) : (s.enterRec r k).ports = s.ports := rfl
@[simp] theorem State.enterRec_dram (s : State) (r : JRec) (k : Nat) : (s.enterRec r k).dram = s.dram := rfl
@[simp] theorem State.enterRec_beat (s : State) (r : JRec) (k : Nat) : (s.enterRec r k).beat = s.beat := rfl
@[simp] theorem State.enterRec_sup (s : State) (r : JRec) (k : Nat) : (s.enterRec r k).sup = s.sup := rfl
@[simp] theorem State.enterRec_pwr (s : State) (r : JRec) (k : Nat) : (s.enterRec r k).pwr = s.pwr := rfl
@[simp] theorem State.enterRec_twin (s : State) (r : JRec) (k : Nat) : (s.enterRec r k).twin = s.twin := rfl
@[simp] theorem State.enterRec_tap (s : State) (r : JRec) (k : Nat) : (s.enterRec r k).tap = s.tap := rfl
@[simp] theorem State.enterRec_host (s : State) (r : JRec) (k : Nat) : (s.enterRec r k).host = s.host := rfl

/-! ### await -/

@[simp] theorem State.await_pending (s : State) (n : Nat) (kind : JobKind) (took : List (Nat × Option Nat)) (pages args : List Nat) : (s.await n kind took pages args).pending = s.pending := rfl
@[simp] theorem State.await_now (s : State) (n : Nat) (kind : JobKind) (took : List (Nat × Option Nat)) (pages args : List Nat) : (s.await n kind took pages args).now = s.now := rfl
@[simp] theorem State.await_free (s : State) (n : Nat) (kind : JobKind) (took : List (Nat × Option Nat)) (pages args : List Nat) : (s.await n kind took pages args).free = s.free := rfl
@[simp] theorem State.await_out (s : State) (n : Nat) (kind : JobKind) (took : List (Nat × Option Nat)) (pages args : List Nat) : (s.await n kind took pages args).out = s.out := rfl
@[simp] theorem State.await_cp (s : State) (n : Nat) (kind : JobKind) (took : List (Nat × Option Nat)) (pages args : List Nat) : (s.await n kind took pages args).cp = s.cp := rfl
@[simp] theorem State.await_bar (s : State) (n : Nat) (kind : JobKind) (took : List (Nat × Option Nat)) (pages args : List Nat) : (s.await n kind took pages args).bar = s.bar := rfl
@[simp] theorem State.await_pcie (s : State) (n : Nat) (kind : JobKind) (took : List (Nat × Option Nat)) (pages args : List Nat) : (s.await n kind took pages args).pcie = s.pcie := rfl
@[simp] theorem State.await_hif (s : State) (n : Nat) (kind : JobKind) (took : List (Nat × Option Nat)) (pages args : List Nat) : (s.await n kind took pages args).hif = s.hif := rfl
@[simp] theorem State.await_i3c (s : State) (n : Nat) (kind : JobKind) (took : List (Nat × Option Nat)) (pages args : List Nat) : (s.await n kind took pages args).i3c = s.i3c := rfl
@[simp] theorem State.await_ev (s : State) (n : Nat) (kind : JobKind) (took : List (Nat × Option Nat)) (pages args : List Nat) : (s.await n kind took pages args).ev = s.ev := rfl
@[simp] theorem State.await_tele (s : State) (n : Nat) (kind : JobKind) (took : List (Nat × Option Nat)) (pages args : List Nat) : (s.await n kind took pages args).tele = s.tele := rfl
@[simp] theorem State.await_img (s : State) (n : Nat) (kind : JobKind) (took : List (Nat × Option Nat)) (pages args : List Nat) : (s.await n kind took pages args).img = s.img := rfl
@[simp] theorem State.await_pol (s : State) (n : Nat) (kind : JobKind) (took : List (Nat × Option Nat)) (pages args : List Nat) : (s.await n kind took pages args).pol = s.pol := rfl
@[simp] theorem State.await_sec (s : State) (n : Nat) (kind : JobKind) (took : List (Nat × Option Nat)) (pages args : List Nat) : (s.await n kind took pages args).sec = s.sec := rfl
@[simp] theorem State.await_pat (s : State) (n : Nat) (kind : JobKind) (took : List (Nat × Option Nat)) (pages args : List Nat) : (s.await n kind took pages args).pat = s.pat := rfl
@[simp] theorem State.await_rud (s : State) (n : Nat) (kind : JobKind) (took : List (Nat × Option Nat)) (pages args : List Nat) : (s.await n kind took pages args).rud = s.rud := rfl
@[simp] theorem State.await_cores (s : State) (n : Nat) (kind : JobKind) (took : List (Nat × Option Nat)) (pages args : List Nat) : (s.await n kind took pages args).cores = s.cores := rfl
@[simp] theorem State.await_fab (s : State) (n : Nat) (kind : JobKind) (took : List (Nat × Option Nat)) (pages args : List Nat) : (s.await n kind took pages args).fab = s.fab := rfl
@[simp] theorem State.await_kv (s : State) (n : Nat) (kind : JobKind) (took : List (Nat × Option Nat)) (pages args : List Nat) : (s.await n kind took pages args).kv = s.kv := rfl
@[simp] theorem State.await_ep (s : State) (n : Nat) (kind : JobKind) (took : List (Nat × Option Nat)) (pages args : List Nat) : (s.await n kind took pages args).ep = s.ep := rfl
@[simp] theorem State.await_lead (s : State) (n : Nat) (kind : JobKind) (took : List (Nat × Option Nat)) (pages args : List Nat) : (s.await n kind took pages args).lead = s.lead := rfl
@[simp] theorem State.await_car (s : State) (n : Nat) (kind : JobKind) (took : List (Nat × Option Nat)) (pages args : List Nat) : (s.await n kind took pages args).car = s.car := rfl
@[simp] theorem State.await_rt (s : State) (n : Nat) (kind : JobKind) (took : List (Nat × Option Nat)) (pages args : List Nat) : (s.await n kind took pages args).rt = s.rt := rfl
@[simp] theorem State.await_ports (s : State) (n : Nat) (kind : JobKind) (took : List (Nat × Option Nat)) (pages args : List Nat) : (s.await n kind took pages args).ports = s.ports := rfl
@[simp] theorem State.await_dram (s : State) (n : Nat) (kind : JobKind) (took : List (Nat × Option Nat)) (pages args : List Nat) : (s.await n kind took pages args).dram = s.dram := rfl
@[simp] theorem State.await_beat (s : State) (n : Nat) (kind : JobKind) (took : List (Nat × Option Nat)) (pages args : List Nat) : (s.await n kind took pages args).beat = s.beat := rfl
@[simp] theorem State.await_sup (s : State) (n : Nat) (kind : JobKind) (took : List (Nat × Option Nat)) (pages args : List Nat) : (s.await n kind took pages args).sup = s.sup := rfl
@[simp] theorem State.await_pwr (s : State) (n : Nat) (kind : JobKind) (took : List (Nat × Option Nat)) (pages args : List Nat) : (s.await n kind took pages args).pwr = s.pwr := rfl
@[simp] theorem State.await_twin (s : State) (n : Nat) (kind : JobKind) (took : List (Nat × Option Nat)) (pages args : List Nat) : (s.await n kind took pages args).twin = s.twin := rfl
@[simp] theorem State.await_tap (s : State) (n : Nat) (kind : JobKind) (took : List (Nat × Option Nat)) (pages args : List Nat) : (s.await n kind took pages args).tap = s.tap := rfl
@[simp] theorem State.await_host (s : State) (n : Nat) (kind : JobKind) (took : List (Nat × Option Nat)) (pages args : List Nat) : (s.await n kind took pages args).host = s.host := rfl

/-! ### updJob -/

@[simp] theorem State.updJob_pending (s : State) (n : Nat) (f : Job → Job) : (s.updJob n f).pending = s.pending := rfl
@[simp] theorem State.updJob_now (s : State) (n : Nat) (f : Job → Job) : (s.updJob n f).now = s.now := rfl
@[simp] theorem State.updJob_free (s : State) (n : Nat) (f : Job → Job) : (s.updJob n f).free = s.free := rfl
@[simp] theorem State.updJob_out (s : State) (n : Nat) (f : Job → Job) : (s.updJob n f).out = s.out := rfl
@[simp] theorem State.updJob_cp (s : State) (n : Nat) (f : Job → Job) : (s.updJob n f).cp = s.cp := rfl
@[simp] theorem State.updJob_bar (s : State) (n : Nat) (f : Job → Job) : (s.updJob n f).bar = s.bar := rfl
@[simp] theorem State.updJob_pcie (s : State) (n : Nat) (f : Job → Job) : (s.updJob n f).pcie = s.pcie := rfl
@[simp] theorem State.updJob_hif (s : State) (n : Nat) (f : Job → Job) : (s.updJob n f).hif = s.hif := rfl
@[simp] theorem State.updJob_i3c (s : State) (n : Nat) (f : Job → Job) : (s.updJob n f).i3c = s.i3c := rfl
@[simp] theorem State.updJob_ev (s : State) (n : Nat) (f : Job → Job) : (s.updJob n f).ev = s.ev := rfl
@[simp] theorem State.updJob_tele (s : State) (n : Nat) (f : Job → Job) : (s.updJob n f).tele = s.tele := rfl
@[simp] theorem State.updJob_img (s : State) (n : Nat) (f : Job → Job) : (s.updJob n f).img = s.img := rfl
@[simp] theorem State.updJob_pol (s : State) (n : Nat) (f : Job → Job) : (s.updJob n f).pol = s.pol := rfl
@[simp] theorem State.updJob_sec (s : State) (n : Nat) (f : Job → Job) : (s.updJob n f).sec = s.sec := rfl
@[simp] theorem State.updJob_pat (s : State) (n : Nat) (f : Job → Job) : (s.updJob n f).pat = s.pat := rfl
@[simp] theorem State.updJob_rud (s : State) (n : Nat) (f : Job → Job) : (s.updJob n f).rud = s.rud := rfl
@[simp] theorem State.updJob_cores (s : State) (n : Nat) (f : Job → Job) : (s.updJob n f).cores = s.cores := rfl
@[simp] theorem State.updJob_fab (s : State) (n : Nat) (f : Job → Job) : (s.updJob n f).fab = s.fab := rfl
@[simp] theorem State.updJob_kv (s : State) (n : Nat) (f : Job → Job) : (s.updJob n f).kv = s.kv := rfl
@[simp] theorem State.updJob_ep (s : State) (n : Nat) (f : Job → Job) : (s.updJob n f).ep = s.ep := rfl
@[simp] theorem State.updJob_lead (s : State) (n : Nat) (f : Job → Job) : (s.updJob n f).lead = s.lead := rfl
@[simp] theorem State.updJob_car (s : State) (n : Nat) (f : Job → Job) : (s.updJob n f).car = s.car := rfl
@[simp] theorem State.updJob_rt (s : State) (n : Nat) (f : Job → Job) : (s.updJob n f).rt = s.rt := rfl
@[simp] theorem State.updJob_ports (s : State) (n : Nat) (f : Job → Job) : (s.updJob n f).ports = s.ports := rfl
@[simp] theorem State.updJob_dram (s : State) (n : Nat) (f : Job → Job) : (s.updJob n f).dram = s.dram := rfl
@[simp] theorem State.updJob_beat (s : State) (n : Nat) (f : Job → Job) : (s.updJob n f).beat = s.beat := rfl
@[simp] theorem State.updJob_sup (s : State) (n : Nat) (f : Job → Job) : (s.updJob n f).sup = s.sup := rfl
@[simp] theorem State.updJob_pwr (s : State) (n : Nat) (f : Job → Job) : (s.updJob n f).pwr = s.pwr := rfl
@[simp] theorem State.updJob_twin (s : State) (n : Nat) (f : Job → Job) : (s.updJob n f).twin = s.twin := rfl
@[simp] theorem State.updJob_tap (s : State) (n : Nat) (f : Job → Job) : (s.updJob n f).tap = s.tap := rfl
@[simp] theorem State.updJob_host (s : State) (n : Nat) (f : Job → Job) : (s.updJob n f).host = s.host := rfl

/-! ### Reading back -/

@[simp] theorem State.core_setCore (s : State) (c d : Nat) (k : Core) : (s.setCore c k).core d = if d = c then k else s.core d :=
  Table.get_set s.cores c d k
@[simp] theorem State.core_updCore (s : State) (c d : Nat) (f : Core → Core) :
    (s.updCore c f).core d = if d = c then f (s.core c) else s.core d :=
  Table.get_set s.cores c d (f (s.core c))
@[simp] theorem State.box_setBox (s : State) (n m : Nat) (b : Mbox) : (s.setBox n b).box m = if m = n then b else s.box m :=
  Table.get_set s.mb.box n m b
@[simp] theorem State.port_setPort (s : State) (p q : Port) (x : PortS) : (s.setPort p x).port q = if q = p then x else s.port q := by
  unfold State.port State.setPort
  simp only [Table.find_put]
  cases p <;> cases q <;> rfl
@[simp] theorem State.eng_setEng (s : State) (c e d g : Nat) (r : Option Run) :
    (s.setEng c e r).eng d g = if d = c ∧ g = e then r else s.eng d g := by
  unfold State.eng State.setEng
  rw [State.core_updCore]
  by_cases h : d = c
  · subst h
    by_cases hg : g = e <;> simp [hg]
  · simp [h]
@[simp] theorem State.lens_setLens (s : State) (q r : Nat) (l : Lens) : (s.setLens q l).lens r = if r = q then l else s.lens r :=
  Table.get_set s.kv.lens q r l
@[simp] theorem State.hdr_setHdr (s : State) (q r : Nat) (h : List Nat) : (s.setHdr q h).hdr r = if r = q then h else s.hdr r :=
  Table.get_set s.kv.hdrs q r h
@[simp] theorem State.startCopy_recs (s : State) (r : Nat) : (s.startCopy r).kv.recs = s.kv.recs := rfl
@[simp] theorem State.startCopy_lens (s : State) (r : Nat) : (s.startCopy r).kv.lens = s.kv.lens := rfl
@[simp] theorem State.setMap_recs (s : State) (seq page : Nat) (r : Option Nat) : (s.setMap seq page r).kv.recs = s.kv.recs := rfl
@[simp] theorem State.setMap_lens (s : State) (seq page : Nat) (r : Option Nat) : (s.setMap seq page r).kv.lens = s.kv.lens := rfl
@[simp] theorem State.addHalt_late_halt (s : State) (ns : Nat) : (s.addHalt ns).car.late.halt = s.car.late.halt + ns := rfl
@[simp] theorem State.originated_orig (s : State) (n : Nat) : (s.originated n).ep.orig = s.ep.orig + n := rfl
@[simp] theorem State.selectRegion_region (s : State) : s.selectRegion.hif.region = mountRegion (s.field 0x0100) := rfl
@[simp] theorem State.selectRegion_up (s : State) : s.selectRegion.hif.up = s.hif.up := rfl
@[simp] theorem State.recordTime_journal (s : State) : s.recordTime.img.journal = s.img.journal := by
  simp only [State.recordTime]
@[simp] theorem State.clearLate_late (s : State) : s.clearLate.car.late = Late.init := rfl
@[simp] theorem State.clearLate_member (s : State) : s.clearLate.car.member = s.car.member := rfl

end Sys2Proof.Machine
end

