-- ==== Sys2Proof/Laws/Ops.lean ====
section
/-!
SUPPORT. What the mailbox protocol's shared operations do, each said once: a chime, the end of a command, its reply through the
payload or a scatter list. Every other field of the state stays as it was.
-/
namespace Sys2Proof.Machine

/-! ### Chimes -/

theorem State.postChime_only (s : State) (n : Nat) (q : Bool) :
    ∃ cs held out, s.postChime n q = { s with bar := { s.bar with chimeStatus := cs }, pcie := { s.pcie with held := held }, out := out } := by
  simp only [State.postChime, State.emit]
  repeat' split
  · exact ⟨_, s.pcie.held, s.out, rfl⟩
  · exact ⟨_, _, s.out, rfl⟩
  · exact ⟨_, s.pcie.held, _, rfl⟩
  · exact ⟨_, s.pcie.held, s.out, rfl⟩

theorem State.ibi_only (s : State) (n : Nat) (ev : Bool) : ∃ out, s.ibi n ev = { s with out := out } := by
  unfold State.ibi State.emit
  split
  · exact ⟨_, rfl⟩
  · exact ⟨s.out, rfl⟩

/-- A chime touches CHIME_STATUS, the held messages, the messages sent and, in hold, the chimes that wait for its end. -/
theorem State.chime_only (s : State) (n : Nat) (q ev : Bool) : ∃ cs held out late,
    s.chime n q ev = { s with
      bar := { s.bar with chimeStatus := cs }, pcie := { s.pcie with held := held }, out := out, mb := { s.mb with heldChimes := late } } := by
  obtain ⟨o, h⟩ := State.ibi_only s n ev
  simp only [State.chime, h]
  split
  · exact ⟨s.bar.chimeStatus, s.pcie.held, o, _, rfl⟩
  · obtain ⟨b, p, o', h'⟩ := State.postChime_only { s with out := o } n q
    exact ⟨b, p, o', s.mb.heldChimes, h'⟩

@[simp] theorem State.chime_pending (s : State) (n : Nat) (q ev : Bool) : (s.chime n q ev).pending = s.pending := by
  obtain ⟨_, _, _, _, h⟩ := State.chime_only s n q ev; rw [h]
@[simp] theorem State.chime_now (s : State) (n : Nat) (q ev : Bool) : (s.chime n q ev).now = s.now := by
  obtain ⟨_, _, _, _, h⟩ := State.chime_only s n q ev; rw [h]
@[simp] theorem State.chime_free (s : State) (n : Nat) (q ev : Bool) : (s.chime n q ev).free = s.free := by
  obtain ⟨_, _, _, _, h⟩ := State.chime_only s n q ev; rw [h]
@[simp] theorem State.chime_cp (s : State) (n : Nat) (q ev : Bool) : (s.chime n q ev).cp = s.cp := by
  obtain ⟨_, _, _, _, h⟩ := State.chime_only s n q ev; rw [h]
@[simp] theorem State.chime_hif (s : State) (n : Nat) (q ev : Bool) : (s.chime n q ev).hif = s.hif := by
  obtain ⟨_, _, _, _, h⟩ := State.chime_only s n q ev; rw [h]
@[simp] theorem State.chime_i3c (s : State) (n : Nat) (q ev : Bool) : (s.chime n q ev).i3c = s.i3c := by
  obtain ⟨_, _, _, _, h⟩ := State.chime_only s n q ev; rw [h]
@[simp] theorem State.chime_ev (s : State) (n : Nat) (q ev : Bool) : (s.chime n q ev).ev = s.ev := by
  obtain ⟨_, _, _, _, h⟩ := State.chime_only s n q ev; rw [h]
@[simp] theorem State.chime_tele (s : State) (n : Nat) (q ev : Bool) : (s.chime n q ev).tele = s.tele := by
  obtain ⟨_, _, _, _, h⟩ := State.chime_only s n q ev; rw [h]
@[simp] theorem State.chime_img (s : State) (n : Nat) (q ev : Bool) : (s.chime n q ev).img = s.img := by
  obtain ⟨_, _, _, _, h⟩ := State.chime_only s n q ev; rw [h]
@[simp] theorem State.chime_pol (s : State) (n : Nat) (q ev : Bool) : (s.chime n q ev).pol = s.pol := by
  obtain ⟨_, _, _, _, h⟩ := State.chime_only s n q ev; rw [h]
@[simp] theorem State.chime_sec (s : State) (n : Nat) (q ev : Bool) : (s.chime n q ev).sec = s.sec := by
  obtain ⟨_, _, _, _, h⟩ := State.chime_only s n q ev; rw [h]
@[simp] theorem State.chime_pat (s : State) (n : Nat) (q ev : Bool) : (s.chime n q ev).pat = s.pat := by
  obtain ⟨_, _, _, _, h⟩ := State.chime_only s n q ev; rw [h]
@[simp] theorem State.chime_rud (s : State) (n : Nat) (q ev : Bool) : (s.chime n q ev).rud = s.rud := by
  obtain ⟨_, _, _, _, h⟩ := State.chime_only s n q ev; rw [h]
@[simp] theorem State.chime_cores (s : State) (n : Nat) (q ev : Bool) : (s.chime n q ev).cores = s.cores := by
  obtain ⟨_, _, _, _, h⟩ := State.chime_only s n q ev; rw [h]
@[simp] theorem State.chime_fab (s : State) (n : Nat) (q ev : Bool) : (s.chime n q ev).fab = s.fab := by
  obtain ⟨_, _, _, _, h⟩ := State.chime_only s n q ev; rw [h]
@[simp] theorem State.chime_kv (s : State) (n : Nat) (q ev : Bool) : (s.chime n q ev).kv = s.kv := by
  obtain ⟨_, _, _, _, h⟩ := State.chime_only s n q ev; rw [h]
@[simp] theorem State.chime_ep (s : State) (n : Nat) (q ev : Bool) : (s.chime n q ev).ep = s.ep := by
  obtain ⟨_, _, _, _, h⟩ := State.chime_only s n q ev; rw [h]
@[simp] theorem State.chime_lead (s : State) (n : Nat) (q ev : Bool) : (s.chime n q ev).lead = s.lead := by
  obtain ⟨_, _, _, _, h⟩ := State.chime_only s n q ev; rw [h]
@[simp] theorem State.chime_car (s : State) (n : Nat) (q ev : Bool) : (s.chime n q ev).car = s.car := by
  obtain ⟨_, _, _, _, h⟩ := State.chime_only s n q ev; rw [h]
@[simp] theorem State.chime_rt (s : State) (n : Nat) (q ev : Bool) : (s.chime n q ev).rt = s.rt := by
  obtain ⟨_, _, _, _, h⟩ := State.chime_only s n q ev; rw [h]
@[simp] theorem State.chime_ports (s : State) (n : Nat) (q ev : Bool) : (s.chime n q ev).ports = s.ports := by
  obtain ⟨_, _, _, _, h⟩ := State.chime_only s n q ev; rw [h]
@[simp] theorem State.chime_dram (s : State) (n : Nat) (q ev : Bool) : (s.chime n q ev).dram = s.dram := by
  obtain ⟨_, _, _, _, h⟩ := State.chime_only s n q ev; rw [h]
@[simp] theorem State.chime_beat (s : State) (n : Nat) (q ev : Bool) : (s.chime n q ev).beat = s.beat := by
  obtain ⟨_, _, _, _, h⟩ := State.chime_only s n q ev; rw [h]
@[simp] theorem State.chime_sup (s : State) (n : Nat) (q ev : Bool) : (s.chime n q ev).sup = s.sup := by
  obtain ⟨_, _, _, _, h⟩ := State.chime_only s n q ev; rw [h]
@[simp] theorem State.chime_pwr (s : State) (n : Nat) (q ev : Bool) : (s.chime n q ev).pwr = s.pwr := by
  obtain ⟨_, _, _, _, h⟩ := State.chime_only s n q ev; rw [h]
@[simp] theorem State.chime_twin (s : State) (n : Nat) (q ev : Bool) : (s.chime n q ev).twin = s.twin := by
  obtain ⟨_, _, _, _, h⟩ := State.chime_only s n q ev; rw [h]
@[simp] theorem State.chime_tap (s : State) (n : Nat) (q ev : Bool) : (s.chime n q ev).tap = s.tap := by
  obtain ⟨_, _, _, _, h⟩ := State.chime_only s n q ev; rw [h]
@[simp] theorem State.chime_host (s : State) (n : Nat) (q ev : Bool) : (s.chime n q ev).host = s.host := by
  obtain ⟨_, _, _, _, h⟩ := State.chime_only s n q ev; rw [h]

@[simp] theorem State.chime_box (s : State) (n m : Nat) (q ev : Bool) : (s.chime n q ev).box m = s.box m := by
  obtain ⟨_, _, _, _, h⟩ := State.chime_only s n q ev
  rw [h]
  rfl

@[simp] theorem State.chime_table (s : State) (n : Nat) (q ev : Bool) : (s.chime n q ev).pcie.table = s.pcie.table := by
  obtain ⟨_, _, _, _, h⟩ := State.chime_only s n q ev
  rw [h]

/-! ### The end of a command -/

/-- The mailbox as a completed command leaves it (R412). -/
def doneBox (b : Mbox) (code detail len bitmap : Nat) (pay : List Byte) : Mbox :=
  { b with owner := 2, status := BitVec.ofNat 32 (code + detail * 65536), resultLen := BitVec.ofNat 32 len,
           bitmap := BitVec.ofNat 32 bitmap, payload := b.payload.writeN 0 (pay.take 4064) }

/-- The end of a command fills its mailbox in, takes it out of the order and the jobs, and chimes. -/
theorem State.finish_only (s : State) (n code detail len bitmap : Nat) (pay : List Byte) : ∃ cs held out late,
    s.finish n code detail len bitmap pay = { s with
      bar := { s.bar with chimeStatus := cs }, pcie := { s.pcie with held := held }, out := out,
      mb := ⟨Table.set Mbox.init s.mb.box n (doneBox (s.box n) code detail len bitmap pay), s.mb.order.filter (· != n),
        s.mb.jobs.filter (fun j => j.n != n), late⟩ } :=
  State.chime_only _ n _ false

@[simp] theorem State.finish_pending (s : State) (n code detail len bitmap : Nat) (pay : List Byte) : (s.finish n code detail len bitmap pay).pending = s.pending := by
  obtain ⟨_, _, _, _, h⟩ := State.finish_only s n code detail len bitmap pay; rw [h]
@[simp] theorem State.finish_now (s : State) (n code detail len bitmap : Nat) (pay : List Byte) : (s.finish n code detail len bitmap pay).now = s.now := by
  obtain ⟨_, _, _, _, h⟩ := State.finish_only s n code detail len bitmap pay; rw [h]
@[simp] theorem State.finish_free (s : State) (n code detail len bitmap : Nat) (pay : List Byte) : (s.finish n code detail len bitmap pay).free = s.free := by
  obtain ⟨_, _, _, _, h⟩ := State.finish_only s n code detail len bitmap pay; rw [h]
@[simp] theorem State.finish_cp (s : State) (n code detail len bitmap : Nat) (pay : List Byte) : (s.finish n code detail len bitmap pay).cp = s.cp := by
  obtain ⟨_, _, _, _, h⟩ := State.finish_only s n code detail len bitmap pay; rw [h]
@[simp] theorem State.finish_hif (s : State) (n code detail len bitmap : Nat) (pay : List Byte) : (s.finish n code detail len bitmap pay).hif = s.hif := by
  obtain ⟨_, _, _, _, h⟩ := State.finish_only s n code detail len bitmap pay; rw [h]
@[simp] theorem State.finish_i3c (s : State) (n code detail len bitmap : Nat) (pay : List Byte) : (s.finish n code detail len bitmap pay).i3c = s.i3c := by
  obtain ⟨_, _, _, _, h⟩ := State.finish_only s n code detail len bitmap pay; rw [h]
@[simp] theorem State.finish_ev (s : State) (n code detail len bitmap : Nat) (pay : List Byte) : (s.finish n code detail len bitmap pay).ev = s.ev := by
  obtain ⟨_, _, _, _, h⟩ := State.finish_only s n code detail len bitmap pay; rw [h]
@[simp] theorem State.finish_tele (s : State) (n code detail len bitmap : Nat) (pay : List Byte) : (s.finish n code detail len bitmap pay).tele = s.tele := by
  obtain ⟨_, _, _, _, h⟩ := State.finish_only s n code detail len bitmap pay; rw [h]
@[simp] theorem State.finish_img (s : State) (n code detail len bitmap : Nat) (pay : List Byte) : (s.finish n code detail len bitmap pay).img = s.img := by
  obtain ⟨_, _, _, _, h⟩ := State.finish_only s n code detail len bitmap pay; rw [h]
@[simp] theorem State.finish_pol (s : State) (n code detail len bitmap : Nat) (pay : List Byte) : (s.finish n code detail len bitmap pay).pol = s.pol := by
  obtain ⟨_, _, _, _, h⟩ := State.finish_only s n code detail len bitmap pay; rw [h]
@[simp] theorem State.finish_sec (s : State) (n code detail len bitmap : Nat) (pay : List Byte) : (s.finish n code detail len bitmap pay).sec = s.sec := by
  obtain ⟨_, _, _, _, h⟩ := State.finish_only s n code detail len bitmap pay; rw [h]
@[simp] theorem State.finish_pat (s : State) (n code detail len bitmap : Nat) (pay : List Byte) : (s.finish n code detail len bitmap pay).pat = s.pat := by
  obtain ⟨_, _, _, _, h⟩ := State.finish_only s n code detail len bitmap pay; rw [h]
@[simp] theorem State.finish_rud (s : State) (n code detail len bitmap : Nat) (pay : List Byte) : (s.finish n code detail len bitmap pay).rud = s.rud := by
  obtain ⟨_, _, _, _, h⟩ := State.finish_only s n code detail len bitmap pay; rw [h]
@[simp] theorem State.finish_cores (s : State) (n code detail len bitmap : Nat) (pay : List Byte) : (s.finish n code detail len bitmap pay).cores = s.cores := by
  obtain ⟨_, _, _, _, h⟩ := State.finish_only s n code detail len bitmap pay; rw [h]
@[simp] theorem State.finish_fab (s : State) (n code detail len bitmap : Nat) (pay : List Byte) : (s.finish n code detail len bitmap pay).fab = s.fab := by
  obtain ⟨_, _, _, _, h⟩ := State.finish_only s n code detail len bitmap pay; rw [h]
@[simp] theorem State.finish_kv (s : State) (n code detail len bitmap : Nat) (pay : List Byte) : (s.finish n code detail len bitmap pay).kv = s.kv := by
  obtain ⟨_, _, _, _, h⟩ := State.finish_only s n code detail len bitmap pay; rw [h]
@[simp] theorem State.finish_ep (s : State) (n code detail len bitmap : Nat) (pay : List Byte) : (s.finish n code detail len bitmap pay).ep = s.ep := by
  obtain ⟨_, _, _, _, h⟩ := State.finish_only s n code detail len bitmap pay; rw [h]
@[simp] theorem State.finish_lead (s : State) (n code detail len bitmap : Nat) (pay : List Byte) : (s.finish n code detail len bitmap pay).lead = s.lead := by
  obtain ⟨_, _, _, _, h⟩ := State.finish_only s n code detail len bitmap pay; rw [h]
@[simp] theorem State.finish_car (s : State) (n code detail len bitmap : Nat) (pay : List Byte) : (s.finish n code detail len bitmap pay).car = s.car := by
  obtain ⟨_, _, _, _, h⟩ := State.finish_only s n code detail len bitmap pay; rw [h]
@[simp] theorem State.finish_rt (s : State) (n code detail len bitmap : Nat) (pay : List Byte) : (s.finish n code detail len bitmap pay).rt = s.rt := by
  obtain ⟨_, _, _, _, h⟩ := State.finish_only s n code detail len bitmap pay; rw [h]
@[simp] theorem State.finish_ports (s : State) (n code detail len bitmap : Nat) (pay : List Byte) : (s.finish n code detail len bitmap pay).ports = s.ports := by
  obtain ⟨_, _, _, _, h⟩ := State.finish_only s n code detail len bitmap pay; rw [h]
@[simp] theorem State.finish_dram (s : State) (n code detail len bitmap : Nat) (pay : List Byte) : (s.finish n code detail len bitmap pay).dram = s.dram := by
  obtain ⟨_, _, _, _, h⟩ := State.finish_only s n code detail len bitmap pay; rw [h]
@[simp] theorem State.finish_beat (s : State) (n code detail len bitmap : Nat) (pay : List Byte) : (s.finish n code detail len bitmap pay).beat = s.beat := by
  obtain ⟨_, _, _, _, h⟩ := State.finish_only s n code detail len bitmap pay; rw [h]
@[simp] theorem State.finish_sup (s : State) (n code detail len bitmap : Nat) (pay : List Byte) : (s.finish n code detail len bitmap pay).sup = s.sup := by
  obtain ⟨_, _, _, _, h⟩ := State.finish_only s n code detail len bitmap pay; rw [h]
@[simp] theorem State.finish_pwr (s : State) (n code detail len bitmap : Nat) (pay : List Byte) : (s.finish n code detail len bitmap pay).pwr = s.pwr := by
  obtain ⟨_, _, _, _, h⟩ := State.finish_only s n code detail len bitmap pay; rw [h]
@[simp] theorem State.finish_twin (s : State) (n code detail len bitmap : Nat) (pay : List Byte) : (s.finish n code detail len bitmap pay).twin = s.twin := by
  obtain ⟨_, _, _, _, h⟩ := State.finish_only s n code detail len bitmap pay; rw [h]
@[simp] theorem State.finish_tap (s : State) (n code detail len bitmap : Nat) (pay : List Byte) : (s.finish n code detail len bitmap pay).tap = s.tap := by
  obtain ⟨_, _, _, _, h⟩ := State.finish_only s n code detail len bitmap pay; rw [h]
@[simp] theorem State.finish_host (s : State) (n code detail len bitmap : Nat) (pay : List Byte) : (s.finish n code detail len bitmap pay).host = s.host := by
  obtain ⟨_, _, _, _, h⟩ := State.finish_only s n code detail len bitmap pay; rw [h]

@[simp] theorem State.finish_box (s : State) (n m code detail len bitmap : Nat) (pay : List Byte) :
    (s.finish n code detail len bitmap pay).box m = if m = n then doneBox (s.box n) code detail len bitmap pay else s.box m := by
  obtain ⟨_, _, _, _, h⟩ := State.finish_only s n code detail len bitmap pay
  rw [h]
  exact Table.get_set (d := Mbox.init) s.mb.box n m (doneBox (s.box n) code detail len bitmap pay)

@[simp] theorem State.finish_table (s : State) (n code detail len bitmap : Nat) (pay : List Byte) :
    (s.finish n code detail len bitmap pay).pcie.table = s.pcie.table := by
  obtain ⟨_, _, _, _, h⟩ := State.finish_only s n code detail len bitmap pay
  rw [h]

/-! ### Host memory -/

/-- A write to host memory writes these bytes there and nothing else. -/
theorem State.hostWrite_only {s t : State} {a : Nat} {bs : List Byte} (h : s.hostWrite a bs = some t) :
    t = { s with host := { s.host with bytes := s.host.bytes.writeN a bs } } := by
  unfold State.hostWrite at h
  split at h
  · next he => cases List.isEmpty_iff.1 he; cases h; rfl
  · split at h
    · cases h
    · cases h; rfl

/-- A scatter writes host memory alone, and keeps its canonical form. -/
theorem State.scatter_only {s t : State} {l : List (Nat × Nat)} {bs : List Byte} (h : s.scatter l bs = some t) :
    ∃ m, t = { s with host := { s.host with bytes := m } } ∧ (s.host.bytes.wf = true → m.wf = true) := by
  induction l generalizing s bs with
  | nil =>
    unfold State.scatter at h
    cases h
    exact ⟨_, rfl, id⟩
  | cons e l ih =>
    obtain ⟨a, n⟩ := e
    unfold State.scatter at h
    split at h
    · cases h
      exact ⟨_, rfl, id⟩
    · split at h
      · next s' hw =>
        have he := State.hostWrite_only hw
        obtain ⟨m, ht, hm⟩ := ih h
        subst he
        exact ⟨m, ht, fun hs => hm (Mem.wf_writeN a _ hs)⟩
      · cases h

/-! ### Replies -/

/-- A reply ends the command in its own mailbox with one status, and writes host memory where the mailbox has a scatter list. -/
theorem State.reply_only (s : State) (n code detail : Nat) (bytes : List Byte) (bitmap : Nat) :
    ∃ m c d l b pay, s.reply n code detail bytes bitmap =
        State.finish { s with host := { s.host with bytes := m } } n c d l b pay ∧ (s.host.bytes.wf = true → m.wf = true) := by
  simp only [State.reply]
  split
  · split
    · exact ⟨s.host.bytes, _, _, _, _, _, rfl, id⟩
    · split
      · exact ⟨s.host.bytes, _, _, _, _, _, rfl, id⟩
      · next hs =>
        obtain ⟨m, ht, hm⟩ := State.scatter_only hs
        subst ht
        exact ⟨m, _, _, _, _, _, rfl, hm⟩
  · exact ⟨s.host.bytes, _, _, _, _, _, rfl, id⟩

@[simp] theorem State.reply_pending (s : State) (n code detail : Nat) (bytes : List Byte) (bitmap : Nat) :
    (s.reply n code detail bytes bitmap).pending = s.pending := by
  obtain ⟨_, _, _, _, _, _, h, _⟩ := State.reply_only s n code detail bytes bitmap; rw [h, State.finish_pending]
@[simp] theorem State.reply_now (s : State) (n code detail : Nat) (bytes : List Byte) (bitmap : Nat) :
    (s.reply n code detail bytes bitmap).now = s.now := by
  obtain ⟨_, _, _, _, _, _, h, _⟩ := State.reply_only s n code detail bytes bitmap; rw [h, State.finish_now]
@[simp] theorem State.reply_free (s : State) (n code detail : Nat) (bytes : List Byte) (bitmap : Nat) :
    (s.reply n code detail bytes bitmap).free = s.free := by
  obtain ⟨_, _, _, _, _, _, h, _⟩ := State.reply_only s n code detail bytes bitmap; rw [h, State.finish_free]
@[simp] theorem State.reply_cp (s : State) (n code detail : Nat) (bytes : List Byte) (bitmap : Nat) :
    (s.reply n code detail bytes bitmap).cp = s.cp := by
  obtain ⟨_, _, _, _, _, _, h, _⟩ := State.reply_only s n code detail bytes bitmap; rw [h, State.finish_cp]
@[simp] theorem State.reply_hif (s : State) (n code detail : Nat) (bytes : List Byte) (bitmap : Nat) :
    (s.reply n code detail bytes bitmap).hif = s.hif := by
  obtain ⟨_, _, _, _, _, _, h, _⟩ := State.reply_only s n code detail bytes bitmap; rw [h, State.finish_hif]
@[simp] theorem State.reply_i3c (s : State) (n code detail : Nat) (bytes : List Byte) (bitmap : Nat) :
    (s.reply n code detail bytes bitmap).i3c = s.i3c := by
  obtain ⟨_, _, _, _, _, _, h, _⟩ := State.reply_only s n code detail bytes bitmap; rw [h, State.finish_i3c]
@[simp] theorem State.reply_ev (s : State) (n code detail : Nat) (bytes : List Byte) (bitmap : Nat) :
    (s.reply n code detail bytes bitmap).ev = s.ev := by
  obtain ⟨_, _, _, _, _, _, h, _⟩ := State.reply_only s n code detail bytes bitmap; rw [h, State.finish_ev]
@[simp] theorem State.reply_tele (s : State) (n code detail : Nat) (bytes : List Byte) (bitmap : Nat) :
    (s.reply n code detail bytes bitmap).tele = s.tele := by
  obtain ⟨_, _, _, _, _, _, h, _⟩ := State.reply_only s n code detail bytes bitmap; rw [h, State.finish_tele]
@[simp] theorem State.reply_img (s : State) (n code detail : Nat) (bytes : List Byte) (bitmap : Nat) :
    (s.reply n code detail bytes bitmap).img = s.img := by
  obtain ⟨_, _, _, _, _, _, h, _⟩ := State.reply_only s n code detail bytes bitmap; rw [h, State.finish_img]
@[simp] theorem State.reply_pol (s : State) (n code detail : Nat) (bytes : List Byte) (bitmap : Nat) :
    (s.reply n code detail bytes bitmap).pol = s.pol := by
  obtain ⟨_, _, _, _, _, _, h, _⟩ := State.reply_only s n code detail bytes bitmap; rw [h, State.finish_pol]
@[simp] theorem State.reply_sec (s : State) (n code detail : Nat) (bytes : List Byte) (bitmap : Nat) :
    (s.reply n code detail bytes bitmap).sec = s.sec := by
  obtain ⟨_, _, _, _, _, _, h, _⟩ := State.reply_only s n code detail bytes bitmap; rw [h, State.finish_sec]
@[simp] theorem State.reply_pat (s : State) (n code detail : Nat) (bytes : List Byte) (bitmap : Nat) :
    (s.reply n code detail bytes bitmap).pat = s.pat := by
  obtain ⟨_, _, _, _, _, _, h, _⟩ := State.reply_only s n code detail bytes bitmap; rw [h, State.finish_pat]
@[simp] theorem State.reply_rud (s : State) (n code detail : Nat) (bytes : List Byte) (bitmap : Nat) :
    (s.reply n code detail bytes bitmap).rud = s.rud := by
  obtain ⟨_, _, _, _, _, _, h, _⟩ := State.reply_only s n code detail bytes bitmap; rw [h, State.finish_rud]
@[simp] theorem State.reply_cores (s : State) (n code detail : Nat) (bytes : List Byte) (bitmap : Nat) :
    (s.reply n code detail bytes bitmap).cores = s.cores := by
  obtain ⟨_, _, _, _, _, _, h, _⟩ := State.reply_only s n code detail bytes bitmap; rw [h, State.finish_cores]
@[simp] theorem State.reply_fab (s : State) (n code detail : Nat) (bytes : List Byte) (bitmap : Nat) :
    (s.reply n code detail bytes bitmap).fab = s.fab := by
  obtain ⟨_, _, _, _, _, _, h, _⟩ := State.reply_only s n code detail bytes bitmap; rw [h, State.finish_fab]
@[simp] theorem State.reply_kv (s : State) (n code detail : Nat) (bytes : List Byte) (bitmap : Nat) :
    (s.reply n code detail bytes bitmap).kv = s.kv := by
  obtain ⟨_, _, _, _, _, _, h, _⟩ := State.reply_only s n code detail bytes bitmap; rw [h, State.finish_kv]
@[simp] theorem State.reply_ep (s : State) (n code detail : Nat) (bytes : List Byte) (bitmap : Nat) :
    (s.reply n code detail bytes bitmap).ep = s.ep := by
  obtain ⟨_, _, _, _, _, _, h, _⟩ := State.reply_only s n code detail bytes bitmap; rw [h, State.finish_ep]
@[simp] theorem State.reply_lead (s : State) (n code detail : Nat) (bytes : List Byte) (bitmap : Nat) :
    (s.reply n code detail bytes bitmap).lead = s.lead := by
  obtain ⟨_, _, _, _, _, _, h, _⟩ := State.reply_only s n code detail bytes bitmap; rw [h, State.finish_lead]
@[simp] theorem State.reply_car (s : State) (n code detail : Nat) (bytes : List Byte) (bitmap : Nat) :
    (s.reply n code detail bytes bitmap).car = s.car := by
  obtain ⟨_, _, _, _, _, _, h, _⟩ := State.reply_only s n code detail bytes bitmap; rw [h, State.finish_car]
@[simp] theorem State.reply_rt (s : State) (n code detail : Nat) (bytes : List Byte) (bitmap : Nat) :
    (s.reply n code detail bytes bitmap).rt = s.rt := by
  obtain ⟨_, _, _, _, _, _, h, _⟩ := State.reply_only s n code detail bytes bitmap; rw [h, State.finish_rt]
@[simp] theorem State.reply_ports (s : State) (n code detail : Nat) (bytes : List Byte) (bitmap : Nat) :
    (s.reply n code detail bytes bitmap).ports = s.ports := by
  obtain ⟨_, _, _, _, _, _, h, _⟩ := State.reply_only s n code detail bytes bitmap; rw [h, State.finish_ports]
@[simp] theorem State.reply_dram (s : State) (n code detail : Nat) (bytes : List Byte) (bitmap : Nat) :
    (s.reply n code detail bytes bitmap).dram = s.dram := by
  obtain ⟨_, _, _, _, _, _, h, _⟩ := State.reply_only s n code detail bytes bitmap; rw [h, State.finish_dram]
@[simp] theorem State.reply_beat (s : State) (n code detail : Nat) (bytes : List Byte) (bitmap : Nat) :
    (s.reply n code detail bytes bitmap).beat = s.beat := by
  obtain ⟨_, _, _, _, _, _, h, _⟩ := State.reply_only s n code detail bytes bitmap; rw [h, State.finish_beat]
@[simp] theorem State.reply_sup (s : State) (n code detail : Nat) (bytes : List Byte) (bitmap : Nat) :
    (s.reply n code detail bytes bitmap).sup = s.sup := by
  obtain ⟨_, _, _, _, _, _, h, _⟩ := State.reply_only s n code detail bytes bitmap; rw [h, State.finish_sup]
@[simp] theorem State.reply_pwr (s : State) (n code detail : Nat) (bytes : List Byte) (bitmap : Nat) :
    (s.reply n code detail bytes bitmap).pwr = s.pwr := by
  obtain ⟨_, _, _, _, _, _, h, _⟩ := State.reply_only s n code detail bytes bitmap; rw [h, State.finish_pwr]
@[simp] theorem State.reply_twin (s : State) (n code detail : Nat) (bytes : List Byte) (bitmap : Nat) :
    (s.reply n code detail bytes bitmap).twin = s.twin := by
  obtain ⟨_, _, _, _, _, _, h, _⟩ := State.reply_only s n code detail bytes bitmap; rw [h, State.finish_twin]
@[simp] theorem State.reply_tap (s : State) (n code detail : Nat) (bytes : List Byte) (bitmap : Nat) :
    (s.reply n code detail bytes bitmap).tap = s.tap := by
  obtain ⟨_, _, _, _, _, _, h, _⟩ := State.reply_only s n code detail bytes bitmap; rw [h, State.finish_tap]

/-- Every other mailbox stays as it was; the command's own goes back to the host. -/
theorem State.reply_box (s : State) (n m code detail : Nat) (bytes : List Byte) (bitmap : Nat) (h : m ≠ n) :
    (s.reply n code detail bytes bitmap).box m = s.box m := by
  obtain ⟨_, _, _, _, _, _, hr, _⟩ := State.reply_only s n code detail bytes bitmap
  rw [hr, State.finish_box, if_neg h]
  rfl

theorem State.reply_owner (s : State) (n code detail : Nat) (bytes : List Byte) (bitmap : Nat) :
    ((s.reply n code detail bytes bitmap).box n).owner = 2 := by
  obtain ⟨_, _, _, _, _, _, hr, _⟩ := State.reply_only s n code detail bytes bitmap
  rw [hr, State.finish_box, if_pos rfl]
  rfl

/-- Without a scatter list the reply is the end of the command with its bytes in the payload. -/
theorem State.reply_plain {s : State} {n : Nat} (h : (s.box n).sgl = false) (code detail : Nat) (bytes : List Byte) (bitmap : Nat) :
    s.reply n code detail bytes bitmap = s.finish n code (if 4064 < bytes.length then 2 else detail) bytes.length bitmap bytes := by
  simp [State.reply, h]

/-- The table of mailboxes keeps its canonical form, and the payloads theirs. -/
theorem State.finish_boxes (s : State) (n code detail len bitmap : Nat) (pay : List Byte) (h : Table.wf Mbox.init s.mb.box = true) :
    Table.wf Mbox.init (s.finish n code detail len bitmap pay).mb.box = true := by
  obtain ⟨_, _, _, _, hf⟩ := State.finish_only s n code detail len bitmap pay
  rw [hf]
  exact Table.wf_set n (doneBox (s.box n) code detail len bitmap pay) h

theorem State.finish_payload (s : State) (n m code detail len bitmap : Nat) (pay : List Byte) (h : (s.box m).payload.wf = true) :
    ((s.finish n code detail len bitmap pay).box m).payload.wf = true := by
  rw [State.finish_box]
  split
  · next e => subst e; exact Mem.wf_writeN 0 _ h
  · exact h

theorem State.fail_eq (s : State) (n code : Nat) : s.fail n code = s.reply n code 0 [] 0 := rfl
theorem State.failD_eq (s : State) (n code detail : Nat) : s.failD n code detail = s.reply n code detail [] 0 := rfl
theorem State.okWords_eq (s : State) (n : Nat) (ws : List Nat) : s.okWords n ws = s.reply n stOk 0 (bytes64 ws) 0 := rfl

end Sys2Proof.Machine
end

