-- ==== Sys2Proof/Laws/Serve.lean ====
section
/-!
SUPPORT. What running a mailbox command does, once for all of them: a command given as its rule wants it runs its effect;
one that the mailbox does not hold changes nothing; a bad scatter list, a host error, reserved bits and the wrong phase are
answered by their status.
-/
namespace Sys2Proof.Machine

variable {s : State} {n : Fin 64} {op : Nat} {masks : List Nat} {bs : List Byte} {k : State → List Byte → State}

theorem guardUnit_true {ok : Bool} (h : ok = true) (s : State) : guardUnit ok s = .next s := by simp [guardUnit, h]
theorem guardUnit_false {ok : Bool} (h : ok = false) (s : State) : guardUnit ok s = .fault .noSuchUnit := by
  simp [guardUnit, h]

/-- A command given as its rule wants it runs its effect on its argument bytes. -/
theorem serve_given (h : Given s n op masks bs) : s.serve n.val op masks k = k s bs := by
  obtain ⟨h1, h2, h3, h4⟩ := h
  simp [State.serve, h1, h2, h3, h4]

theorem serveG1_given (h : GivenG1 s n op bs) : s.serveG1 n.val op k = k s bs := by
  obtain ⟨h1, h2, h3⟩ := h
  simp [State.serveG1, h1, h2, h3]

/-- A command that the mailbox does not hold changes nothing (log 3). -/
theorem serve_idle (h : s.holds n.val false op = false) : s.serve n.val op masks k = s := by simp [State.serve, h]
theorem serveG1_idle (h : s.holds n.val true op = false) : s.serveG1 n.val op k = s := by simp [State.serveG1, h]

/-- A scatter list that breaks R417 is answered BAD_ARG. -/
theorem serve_badArgs (h : s.holds n.val false op = true) (ha : s.argsOf n.val = .bad) :
    s.serve n.val op masks k = s.finish n.val stBadArg 0 0 0 [] := by simp [State.serve, h, ha]

/-- Host memory that answers an error is answered REJECTED with DETAIL 1 (R417). -/
theorem serve_hostErr (h : s.holds n.val false op = true) (ha : s.argsOf n.val = .hostErr) :
    s.serve n.val op masks k = s.finish n.val stRejected 1 0 0 [] := by simp [State.serve, h, ha]

/-- A set reserved bit is answered BAD_ARG (R415). -/
theorem serve_reserved (h : s.holds n.val false op = true) (ha : s.argsOf n.val = .ok bs) (hr : reservedOk bs masks = false) :
    s.serve n.val op masks k = s.fail n.val stBadArg := by simp [State.serve, h, ha, hr]

/-- A command that the present phase does not allow is answered NOT_IN_STATE (R427). -/
theorem serve_phase (h : s.holds n.val false op = true) (ha : s.argsOf n.val = .ok bs) (hr : reservedOk bs masks = true)
    (hp : s.allowed n.val op = false) : s.serve n.val op masks k = s.fail n.val stNotInState := by
  simp [State.serve, h, ha, hr, hp]

theorem sized_eq {w : Nat} {f : State → State} (h : bs.length = w) : s.sized n.val bs w f = f s := by simp [State.sized, h]
theorem sized_ne {w : Nat} {f : State → State} (h : bs.length ≠ w) : s.sized n.val bs w f = s.fail n.val stBadArg := by
  simp [State.sized, h]

end Sys2Proof.Machine
end

