-- ==== Sys2Proof/Laws/Sound.lean ====
section
/-!
SUPPORT. The invariant reads a few fields: what leaves those as they are keeps it, and so does the end of any command.
-/
namespace Sys2Proof.Machine

/-- The part of the state that the invariant reads, but for the mailboxes. -/
def State.soundPart (s : State) : List Instr × Mem × Mem × Mem × Mem × Mem × Nat × List Word32 × Tap × List JRec × Option (List Byte) × Bool :=
  (s.pending, s.dram.bytes, s.host.bytes, s.pcie.table, s.img.u0, s.img.u1, s.bar.window, s.bar.scratch, s.tap, s.img.journal,
    s.sec.ownerKey, s.sec.unsignedOk)

theorem Sound.of_parts {s t : State} (h : Sound s) (hp : t.soundPart = s.soundPart) (hb : Table.wf Mbox.init t.mb.box = true)
    (hm : ∀ n, (t.box n).payload.wf = true) : Sound t := by
  simp only [State.soundPart, Prod.mk.injEq] at hp
  obtain ⟨e1, e2, e3, e4, e5, e6, e7, e8, e9, e10, e11, e12⟩ := hp
  obtain ⟨a1, _, _, a4, a5, a6, a7, a8, a9, a10, a11, a12, a13⟩ := h
  exact ⟨e1 ▸ a1, hb, hm, e2 ▸ a4, e3 ▸ a5, e4 ▸ a6, e5 ▸ a7, e6 ▸ a8, e7 ▸ a9, e8 ▸ a10, by rw [e9]; exact a11,
    e10 ▸ a12, by rw [e11, e12]; exact a13⟩

/-- What leaves that part and the mailboxes as they are keeps the invariant. -/
theorem Sound.of_eq {s t : State} (h : Sound s) (hp : t.soundPart = s.soundPart) (hb : t.mb.box = s.mb.box) : Sound t :=
  h.of_parts hp (hb ▸ h.2.1) (fun n => by
    have := h.2.2.1 n
    unfold State.box at this ⊢
    rwa [hb])

theorem Sound.chime {s : State} (h : Sound s) (n : Nat) (q ev : Bool) : Sound (s.chime n q ev) := by
  obtain ⟨_, _, _, _, e⟩ := State.chime_only s n q ev
  rw [e]
  exact h.of_eq rfl rfl

theorem Sound.finish {s : State} (h : Sound s) (n code detail len bitmap : Nat) (pay : List Byte) :
    Sound (s.finish n code detail len bitmap pay) := by
  refine h.of_parts ?_ (State.finish_boxes s n code detail len bitmap pay h.2.1)
    (fun m => State.finish_payload s n m code detail len bitmap pay (h.2.2.1 m))
  obtain ⟨_, _, _, _, e⟩ := State.finish_only s n code detail len bitmap pay
  rw [e]
  rfl

/-- Host memory may change as long as its form stays. -/
theorem Sound.host {s : State} (h : Sound s) {m : Mem} (hm : s.host.bytes.wf = true → m.wf = true) :
    Sound { s with host := { s.host with bytes := m } } :=
  ⟨h.1, h.2.1, h.2.2.1, h.2.2.2.1, hm h.2.2.2.2.1, h.2.2.2.2.2⟩

/-- Every reply keeps the invariant, so a command that only answers does. -/
theorem Sound.reply {s : State} (h : Sound s) (n code detail : Nat) (bytes : List Byte) (bitmap : Nat) :
    Sound (s.reply n code detail bytes bitmap) := by
  obtain ⟨_, _, _, _, _, _, e, hm⟩ := State.reply_only s n code detail bytes bitmap
  rw [e]
  exact (h.host hm).finish n _ _ _ _ _

theorem Sound.fail {s : State} (h : Sound s) (n code : Nat) : Sound (s.fail n code) := h.reply n code 0 [] 0
theorem Sound.okWords {s : State} (h : Sound s) (n : Nat) (ws : List Nat) : Sound (s.okWords n ws) := h.reply n stOk 0 _ 0

/-- A mailbox command keeps the invariant when its effect does. -/
theorem Sound.serve {s : State} (h : Sound s) (n op : Nat) (masks : List Nat) {k : State → List Byte → State}
    (hk : ∀ bs, Sound (k s bs)) : Sound (s.serve n op masks k) := by
  unfold State.serve
  repeat' split
  all_goals first | exact hk _ | exact h.finish n _ _ _ _ _ | exact h.fail n _ | exact h

theorem Sound.serveG1 {s : State} (h : Sound s) (n op : Nat) {k : State → List Byte → State}
    (hk : ∀ bs, Sound (k s bs)) : Sound (s.serveG1 n op k) := by
  unfold State.serveG1
  repeat' split
  all_goals first | exact hk _ | exact h.finish n _ _ _ _ _ | exact h.fail n _ | exact h

theorem Sound.sized {s : State} (h : Sound s) (n : Nat) (bs : List Byte) (want : Nat) {k : State → State} (hk : Sound (k s)) :
    Sound (s.sized n bs want k) := by
  unfold State.sized
  split
  · exact hk
  · exact h.fail n _

end Sys2Proof.Machine
end

