-- ==== Sys2Proof/Tests/Slice0.lean ====
section
/-!
SUPPORT. Tests. A `test_wit_…` theorem shows a concrete state and operands that meet the hypotheses of the obligation it is
named for, clause by clause; the other tests run one command, or one operation, on a small state and compare with the spec.
-/
namespace Sys2Proof.Tests
open Sys2Proof Sys2Proof.Machine

/-! ## Helpers -/

/-- A device in READY with its host link up and DRAM trained. -/
def ready : State := { State.reset with
  cp := { State.reset.cp with phase := 4 }, hif := { up := true, modules := 4, rate := 32, rev := 3, region := .advanced, advOn := true, stdOn := false },
  dram := { Dram.init with trained := true } }

/-- Bytes from an address on, zeros left out: the canonical form. -/
def memAt (a : Nat) (bs : List Byte) : Mem := (bs.zipIdx.filter (fun e => e.1 != 0)).map (fun e => (a + e.2, e.1))

/-- Mailbox n as the host hands it over: generation, opcode, flags and argument bytes. -/
def give (s : State) (n gen op flags : Nat) (bs : List Byte) : State := { s with mb := { s.mb with
  order := s.mb.order ++ [n],
  box := Table.set Mbox.init s.mb.box n { Mbox.init with
    owner := 1, gen := BitVec.ofNat 32 gen, opflags := BitVec.ofNat 32 (op + 65536 * flags),
    length := BitVec.ofNat 32 bs.length, payload := memAt 0 bs } } }

/-- A mailbox command in mailbox 0 of a ready device. -/
def cmd (gen op : Nat) (ws : List Nat) : State := give ready 0 gen op 0 (bytes64 ws)
def cmdG1 (op : Nat) (ws : List Nat) : State := give ready 0 1 op 0 (ws.flatMap (natLe 4))
/-- A mailbox command whose flags say that its arguments and result go through a scatter list. -/
def sglBytes (ins outs : List (Nat × Nat)) : List Byte :=
  bytes64 [ins.length + outs.length * 2 ^ 32, 0] ++ (ins ++ outs).flatMap (fun e => bytes64 [e.1, e.2])

/-- What a command leaves (the state after reset where it stops). -/
def after (i : Instr) (s : State) : State := match exec i s with | .next t => t | _ => State.reset

/-! ## Registers and mailboxes -/

/-- The terms of `Sound` for a state without mailboxes in use. -/
def plain (s : State) : Bool :=
  s.mb.box.isEmpty && s.dram.bytes.wf && s.host.bytes.wf && s.pcie.table.wf && s.img.u0.wf && s.img.u1.wf &&
  decide (s.bar.window ≤ 47) && s.bar.scratch.length == 4 && s.tap.extest == takesPins s.tap.ir && s.img.journal.all JRec.banksOk

theorem sound_of_plain {s : State} (h : plain s = true) (hp : ∀ c ∈ s.pending, c.wf = true)
    (hk : s.sec.ownerKey = none → s.sec.unsignedOk = true) : Sound s := by
  simp only [plain, Bool.and_eq_true, decide_eq_true_eq, beq_iff_eq, List.isEmpty_iff] at h
  obtain ⟨⟨⟨⟨⟨⟨⟨⟨⟨a, b⟩, c⟩, d⟩, e⟩, f⟩, g⟩, i⟩, j⟩, k⟩ := h
  refine ⟨hp, by rw [a]; rfl, fun n => by unfold State.box; rw [a]; rfl, b, c, d, e, f, g, i, j, k, hk⟩

def busy : State := give ready 3 2 0x43 0 (natLe 8 (65536 * 2))
def closed : State := { ready with hif := { ready.hif with up := false } }
/-- A completed mailbox 0. -/
def completed : State := { ready with mb := { ready.mb with box := [(0, { Mbox.init with owner := 2 })] } }
/-- The waiting commands of a queue that the invariant allows. -/
def queued : State := { ready with pending := [.beatNumberLoRead, .bar2Read (2 ^ 32 - 4) 4] }

theorem test_wit_StopsOnlyOnAbsentUnits :
    Instr.wf (.bar2Read (2 ^ 32 - 1) 1) = true ∧ Instr.wf (.bar2Read (2 ^ 32) 1) = false := by decide

theorem test_wit_StepRunsFrontCommand : State.reset.pending = [] := by decide

theorem test_wit_CommandsKeepQueue : (match exec .d3hot queued with | .next _ => true | _ => false) = true := by decide

/-- The invariant holds of a device in READY with two commands waiting; runs of any length start there too. -/
theorem test_wit_InvariantKept : Sound queued := sound_of_plain (by decide) (by decide) (fun _ => rfl)

/-- The payload at its full size. -/
theorem test_wit_CompletionReturnsMailbox_full : (List.replicate 4064 0xA5#8).length ≤ 4064 := Nat.le_of_eq List.length_replicate

theorem test_wit_CompletionReturnsMailbox_ready :
    busy.cp.phase ≠ 5 ∧ ({ busy with cp := { busy.cp with phase := 5 } } : State).cp.phase = 5 := by decide

/-- A command whose result goes to 16 bytes of host memory at 0x1000. -/
def scattered : State := give ready 5 2 0x01 2 (sglBytes [] [(0x1000, 16)])

theorem test_wit_CompletionReturnsMailbox_scatter :
    (scattered.box 5).sgl = true ∧ (scattered.box 5).sglOf = some ⟨[], [(0x1000, 16)]⟩ ∧
    scattered.hostBad 0x1000 16 = false := by decide

theorem test_wit_CompletionReturnsMailbox_plain : (busy.box 3).sgl = false := by decide

theorem test_wit_HostRegisterWritesComplete : ready.barOpen = true ∧ (natLe 4 7).length = 4 := by decide

theorem test_wit_OwnerWriteHandsOver_free : (ready.box 0).owner ≠ 1 ∧ ready.barOpen = true ∧ Sound ready := ⟨by decide, by decide, sound_of_plain (by decide) (by decide) (fun _ => rfl)⟩

/-- Mailbox n of s after OWNER was written 1, before the first checks. -/
def handed (s : State) (n : Nat) : State :=
  { (s.setBox n { s.box n with owner := 1 }) with mb := { (s.setBox n { s.box n with owner := 1 }).mb with order := s.mb.order ++ [n] } }

/-- GEN 0 fails the first check of R415. -/
theorem test_wit_OwnerWriteHandsOver_badGen :
    (handed ready 0).served 0 = true ∧ (handed ready 0).frontStatus 0 = some stBadGen := by decide

/-- Mailbox 0 holds TELEMETRY of GEN 2, not yet handed over. -/
def filled : State := { ready with mb := { ready.mb with box := [(0, { Mbox.init with gen := 2, opflags := 2, length := 8 })] } }

theorem test_wit_OwnerWriteHandsOver_kept : (handed filled 0).frontStatus 0 = none := by decide

theorem test_wit_OwnerWriteHandsOver_back : (completed.box 0).owner = 2 := by decide

theorem test_wit_OwnerWriteHandsOver_mine : (busy.box 3).owner = 1 := by decide

def windowed : State := { ready with bar := { ready.bar with window := 47 }, cores := [(3, { Core.init with flags := 1 })] }

/-- The last two bytes of the last window. -/
theorem test_wit_ApertureMovesDram_top :
    windowed.barOpen = true ∧ windowed.dram.trained = true ∧ windowed.dram.closed = false ∧ 2 ^ 32 - 2 + [1#8, 2#8].length ≤ 2 ^ 32 ∧
    ∀ b ∈ burstsOf (windowed.bar.window * 2 ^ 32 + (2 ^ 32 - 2)) 2,
      Table.get [] windowed.dram.errs b = [] ∧ NatSet.has windowed.dram.poison b = false ∧ windowed.erased b = none := by decide

theorem test_wit_ApertureMovesDram_window :
    fld (47#32).toNat 5 0 ≤ 47 ∧ 47 < fld (48#32).toNat 5 0 ∧ fld (64#32).toNat 5 0 ≤ 47 := by decide

theorem test_wit_MailboxWritesLand :
    ready.barOpen = true ∧ 32 ≤ 4092 ∧ 4092 + (natLe 4 1).length ≤ 4096 ∧ natLe 4 1 ≠ [] ∧ (ready.box 63).owner ≠ 1 ∧
    (busy.box 3).owner = 1 := by decide

theorem test_wit_ResetCtlStartsWarmReset :
    (0xA5C30001#32).toNat / 65536 = 0xA5C3 ∧ (0xA5C30001#32).getLsbD 0 = true ∧ ready.cp.phase ≠ 5 ∧ ready.barOpen = true ∧
    (0xA5C30002#32).getLsbD 0 = false := by decide

/-! ## Reset, link, sideband -/

theorem test_wit_ScratchThroughResets : 2 ≤ 2 ∧ 1 < 2 := by decide

def inEpoch (s : State) (st : EpSt) : State := { s with ep := { s.ep with st := st } }

theorem test_wit_ResetsKeepTheirState_kept : ready.keepsDram true = true ∧ ready.keepsDram false = false := by decide

theorem test_wit_ResetsKeepTheirState_epochs :
    (inEpoch ready .idle).ep.st = .idle ∧ (inEpoch ready .prepared).ep.st = .prepared ∧ (inEpoch ready .running).ep.st = .running ∧
    (inEpoch ready .done).ep.st = .done := by decide

def stopped3 : State := { ready with cp := { ready.cp with wdog := 2 } }
def waiting : State := { State.reset with cp := { State.reset.cp with rstLow := true, started := false } }

theorem test_wit_ResetEventsComplete_warm :
    Given (cmd 2 0xF0 [1]) 0 0xF0 [1] (bytes64 [1]) ∧ (bytes64 [1]).length = 8 := by unfold Given; decide

theorem test_wit_ResetEventsComplete_g1 : GivenG1 (cmdG1 0x7F [1]) 0 0x7F (natLe 4 1) ∧ (natLe 4 1).length = 4 := by unfold GivenG1; decide

theorem test_wit_ResetEventsComplete_events :
    stopped3.live = true ∧ waiting.cp.pwrgd = true ∧ waiting.cp.started = false := by decide

theorem test_wit_HostLinkEvents_up : ready.live = true ∧ ready.hif.up = true := by decide

theorem test_wit_HostLinkEvents_down :
    closed.live = true ∧ closed.hif.up = false ∧ closed.cp.phase = 4 ∧ 1 ≤ 1 ∧ 1 ≤ closed.field 0x0102 ∧ ucieOk 1 4 = true := by decide

/-- The last entry of the table. -/
theorem test_wit_HostLinkEvents_table : ready.barOpen = true ∧ 1008 + (List.replicate 16 0xFF#8).length ≤ 1024 := by decide

def sideband : State := { ready with i3c := { ready.i3c with dynAddr := some 9 } }
def atBeat : State := { ready with i3c := { ready.i3c with dynAddr := some 9, offset := 0x1200 }, beat := { ready.beat with num := 2 ^ 40 + 3 } }

theorem test_wit_SidebandPortReachesMailbox :
    sideband.live = true ∧ (0x3B#7) ≠ 0x3A#7 ∧ sideband.i3c.dynAddr.isSome = true ∧ 4092 + (natLe 4 1).length ≤ 4096 ∧
    sideband.i3c.offset + 4096 ≤ 4096 ∧ atBeat.i3c.offset = 0x1200 ∧ atBeat.i3c.dynAddr.isSome = true := by decide

/-! ## Information, image and identity commands -/

/-- The command in mailbox 5 with its arguments at 0x2000 of host memory and its result to go to 0x10000. -/
def cmdSgl (s : State) (op : Nat) (bs : List Byte) (room : Nat) : State :=
  give { s with host := { s.host with bytes := Mem.writeN s.host.bytes 0x2000 bs } } 5 2 op 2
    (sglBytes (if bs.isEmpty then [] else [(0x2000, bs.length)]) [(0x10000, room)])

/-- A log of three records from position 7 on, and one snare. -/
def logged : State := { ready with ev := { ready.ev with
  next := 10, recs := [⟨0, 0, 7, 0xDA, 1, 0, 0, 0⟩, ⟨1, 5, 0, 0x42, 1, 0, 0, 0⟩, ⟨0, 0, 8, 0xDA, 2, 0, 0, 0⟩], snares := [(1, [1, 2, 3])] } }

theorem test_wit_EventsAreRecorded : 63 < 64 ∧ logged.ev.recs.length < 16384 := by decide

theorem test_wit_InfoReportsDevice_info :
    Given (cmd 2 1 [0]) 0 0x01 [0xFF] (bytes64 [0]) ∧ (bytes64 [0]).length = 8 ∧ argW (bytes64 [0]) 0 = 0 := by unfold Given; decide

/-- The last page. -/
theorem test_wit_InfoReportsDevice_telemetry :
    Given (cmd 3 2 [3]) 0 0x02 [0xFF] (bytes64 [3]) ∧ (bytes64 [3]).length = 8 ∧
    ((cmd 3 2 [3]).telePage (argW (bytes64 [3]) 0)).isSome = true := by unfold Given; decide

theorem test_wit_InfoReportsDevice_g1 :
    GivenG1 (cmdG1 1 []) 0 0x01 [] ∧ GivenG1 (cmdG1 2 []) 0 0x02 [] ∧ ((cmdG1 2 []).telePage 0).isSome = true := by unfold GivenG1; decide

def logArgs (cur a1 : Nat) : List Byte := bytes64 [cur, a1]

/-- MAXREC at its largest, CURSOR before the oldest record kept. -/
theorem test_wit_EventLogIsRead_records :
    Given (give logged 0 2 3 0 (logArgs 0 (0xFF0000 + 16384))) 0 0x03 [allBits, bits 32 0] (logArgs 0 (0xFF0000 + 16384)) ∧
    bitAt (argW (logArgs 0 (0xFF0000 + 16384)) 1) 32 = false ∧ 1 ≤ fld (argW (logArgs 0 (0xFF0000 + 16384)) 1) 15 0 ∧
    fld (argW (logArgs 0 (0xFF0000 + 16384)) 1) 15 0 ≤ 16384 ∧ (logArgs 0 (0xFF0000 + 16384)).length = 16 := by unfold Given; decide

theorem test_wit_EventLogIsRead_snare :
    Given (cmdSgl logged 3 (logArgs 1 (2 ^ 32)) 4096) 5 0x03 [allBits, bits 32 0] (logArgs 1 (2 ^ 32)) ∧
    bitAt (argW (logArgs 1 (2 ^ 32)) 1) 32 = true ∧ ((cmdSgl logged 3 (logArgs 1 (2 ^ 32)) 4096).box 5).sgl = true ∧
    (cmdSgl logged 3 (logArgs 1 (2 ^ 32)) 4096).ev.snares.find? (fun e => e.1 == argW (logArgs 1 (2 ^ 32)) 0) = some (1, [1, 2, 3]) := by unfold Given; decide

theorem test_wit_EventLogIsRead_g1 :
    GivenG1 (cmdG1 3 [0, 1]) 0 0x03 ([0, 1].flatMap (natLe 4)) ∧ 1 ≤ g1F ([0, 1].flatMap (natLe 4)) 1 15 ∧
    ready.ev.recs.length ≤ ready.ev.next := by unfold GivenG1; decide

/-- An image without fields, as bytes and as a bank's contents. -/
def emptyImage : List Byte := imgBytes 1 []
def staged : State := { ready with img := { ready.img with u0 := memAt 0 emptyImage } }
def imageCmd (s : State) (op : Nat) (bs : List Byte) : State := give s 0 2 op 0 bs

/-- The last eight bytes of bank U0. -/
theorem test_wit_ImageCommandsActOnStagingBank_read :
    Given (imageCmd ready 0x10 (bytes64 [(2 ^ 21 - 8) * 2 ^ 32 + 1, 8])) 0 0x10 [place 0xFFFFFFFF 32 + 3, 0xFFFFFFFF]
      (bytes64 [(2 ^ 21 - 8) * 2 ^ 32 + 1, 8]) ∧
    (1 ≠ 3 ∧ (2 ^ 21 - 8) + 8 ≤ bankBytes) ∧
    Given (imageCmd ready 0x10 (bytes64 [3, 0])) 0 0x10 [place 0xFFFFFFFF 32 + 3, 0xFFFFFFFF] (bytes64 [3, 0]) ∧
    fld (argW (bytes64 [3, 0]) 0) 1 0 = 3 ∧ 0 + fld (argW (bytes64 [3, 0]) 1) 31 0 ≤ (imageCmd ready 0x10 (bytes64 [3, 0])).resolved.length := by
  unfold Given; decide +kernel

theorem test_wit_ImageCommandsActOnStagingBank_write :
    Given (imageCmd ready 0x11 (bytes64 [(2 ^ 21 - 8) * 2 ^ 32, 5])) 0 0x11 [place 0xFFFFFFFF 32]
      (bytes64 [(2 ^ 21 - 8) * 2 ^ 32, 5]) ∧
    fld (argW (bytes64 [(2 ^ 21 - 8) * 2 ^ 32, 5]) 0) 63 32 + ((bytes64 [(2 ^ 21 - 8) * 2 ^ 32, 5]).length - 8) ≤ bankBytes := by unfold Given; decide

theorem test_wit_ImageCommandsActOnStagingBank_commit :
    Given (imageCmd staged 0x12 []) 0 0x12 [] [] ∧ imgOk ((imageCmd staged 0x12 []).bankMem 1) = true ∧
    (imageCmd staged 0x12 []).staging = 1 ∧ ((imageCmd staged 0x12 []).imageAccepted ((imageCmd staged 0x12 []).bankMem 1)).1 = true := by unfold Given; decide

/-- An erased bank holds no image. -/
theorem test_wit_ImageCommandsActOnStagingBank_refused :
    Given (imageCmd ready 0x12 []) 0 0x12 [] [] ∧ imgOk ((imageCmd ready 0x12 []).bankMem (imageCmd ready 0x12 []).staging) = false := by unfold Given; decide

/-- An unsigned image under an owner key that asks for signatures. -/
theorem test_wit_ImageCommandsActOnStagingBank_unsigned :
    let s := imageCmd { staged with sec := { ready.sec with ownerKey := some (List.replicate 64 1), unsignedOk := false } } 0x12 []
    Given s 0 0x12 [] [] ∧ imgOk (s.bankMem s.staging) = true ∧ (s.imageAccepted (s.bankMem s.staging)).1 = false := by unfold Given; decide

theorem test_wit_ImageCommandsActOnStagingBank_factory :
    Given (imageCmd ready 0x13 (bytes64 [1])) 0 0x13 [1] (bytes64 [1]) ∧ argW (bytes64 [1]) 0 = 1 ∧
    (imageCmd ready 0x13 (bytes64 [1])).sec.ownerKey = none := by unfold Given; decide

/-- U1 valid, U0 (an image without fields) previous, its digest as recorded. -/
def revertible : State := { staged with img := { staged.img with
  journal := [.commit 1 2 1 4 (List.replicate 16 0) (imgDigest 16 staged.img.u0)] } }

theorem test_wit_ImageCommandsActOnStagingBank_revert :
    Given (imageCmd revertible 0x13 (bytes64 [0])) 0 0x13 [1] (bytes64 [0]) ∧ argW (bytes64 [0]) 0 = 0 ∧
    (imageCmd revertible 0x13 (bytes64 [0])).sec.ownerKey = none ∧ (imageCmd revertible 0x13 (bytes64 [0])).prevBank ≠ 0 ∧
    ∀ r, (imageCmd revertible 0x13 (bytes64 [0])).commitRec = some r →
      imgDigest 16 ((imageCmd revertible 0x13 (bytes64 [0])).bankMem r.2.1) = r.2.2.2.2 := by
  refine ⟨by unfold Given; decide, by decide, by decide, by decide, fun r h => ?_⟩
  have e : (imageCmd revertible 0x13 (bytes64 [0])).commitRec =
    some (2, 1, 4, List.replicate 16 0, imgDigest 16 staged.img.u0) := rfl
  have m : (imageCmd revertible 0x13 (bytes64 [0])).bankMem 1 = staged.img.u0 := rfl
  rw [e] at h
  replace h := Option.some.inj h
  rw [← h]
  dsimp only
  rw [m]

def g1Read : List Byte := [1, 0, 0x1000, 4].flatMap (natLe 4)
def g1Write : List Byte := [0, 0x1000, 4].flatMap (natLe 4)

theorem test_wit_ImageCommandsActOnStagingBank_g1 :
    GivenG1 (cmdG1 8 [1, 0, 0x1000, 4]) 0 0x08 g1Read ∧ g1Read.length = 16 ∧ GivenG1 (cmdG1 9 [0, 0x1000, 4]) 0 0x09 g1Write ∧
    g1Write.length = 12 ∧ (cmdG1 8 [1, 0, 0x1000, 4]).imageBytes (g1F g1Read 0 1) (argG1 g1Read 1) (4 * fld (argG1 g1Read 3) 23 0) =
      some (List.replicate 16 0) ∧
    ((cmdG1 8 [1, 0, 0x1000, 4]).hostWrite (argG1 g1Read 2) (List.replicate 16 0)).isSome = true ∧
    (cmdG1 9 [0, 0x1000, 4]).hostRead (argG1 g1Write 1) (4 * fld (argG1 g1Write 2) 23 0) = some (List.replicate 16 0) ∧
    argG1 g1Write 0 + (List.replicate 16 (0 : Byte)).length ≤ bankBytes := by unfold GivenG1; decide

theorem test_wit_ImageCommandsActOnStagingBank_cfgCommit :
    GivenG1 (give staged 0 1 0x0A 0 []) 0 0x0A [] ∧ imgOk (staged.bankMem staged.staging) = true := by unfold GivenG1; decide

def keyed (unsig : Bool) : State := { ready with sec := { ready.sec with ownerKey := some (List.replicate 64 1), unsignedOk := unsig } }
/-- An image whose header announces a signature. -/
def signedImage : Mem := memAt 0 (bytes64 [0x0F241A6E * 2 ^ 32 + 65536, 64 * 2 ^ 32 + 29792, 1, 0, 0, 0, 0, 0])

theorem test_wit_OwnerKeyRules_images :
    imgOk (memAt 0 emptyImage) = true ∧ (imgHdr (memAt 0 emptyImage)).siglen = 0 ∧ imgOk signedImage = true ∧
    (imgHdr signedImage).siglen ≠ 0 ∧ (keyed false).sec.ownerKey = some (List.replicate 64 1) ∧ ready.sec.ownerKey = none ∧ ready.img.auth = none := by decide

def ownerMasks : List Nat := [allBits, allBits, allBits, allBits, allBits, allBits, allBits, allBits, 1]
def ownerArgs : List Byte := List.replicate 64 7 ++ natLe 8 1

/-- What a signature verifies to is opaque (log 11), so the clauses that assume it have no concrete witness. -/
theorem test_wit_OwnerKeyRules_set :
    Given (give ready 0 2 0x22 0 ownerArgs) 0 0x22 ownerMasks ownerArgs ∧ (give ready 0 2 0x22 0 ownerArgs).sec.ownerKey = none ∧
    ownerArgs.length = 72 ∧ (ready.ownerEntries (ownerArgs.take 64) (argW ownerArgs 8)).length ≤ 4096 ∧
    (imgBytes 1 (ready.ownerEntries (ownerArgs.take 64) (argW ownerArgs 8))).length ≤ bankBytes := by unfold Given; decide +kernel

def known : State := { ready with sec := { ready.sec with idOk := true, keyHeld := true }, rud := { ready.rud with digest := List.replicate 32 0 } }
def nonce : List Byte := List.replicate 32 9

theorem test_wit_AttestationReportsState_attest :
    Given (cmdSgl known 0x20 nonce 65536) 5 0x20 [] nonce ∧ (cmdSgl known 0x20 nonce 65536).sec.idOk = true ∧
    (cmdSgl known 0x20 nonce 65536).sec.keyHeld = true ∧ nonce.length = 32 ∧ ((cmdSgl known 0x20 nonce 65536).box 5).sgl = true ∧
    known.pat.digest.length = 32 ∧ known.rud.digest.length = 32 := by unfold Given; decide

theorem test_wit_AttestationReportsState_refused :
    Given (cmdSgl ready 0x20 nonce 65536) 5 0x20 [] nonce ∧ (cmdSgl ready 0x20 nonce 65536).sec.idOk = false := by unfold Given; decide

theorem test_wit_AttestationReportsState_cert :
    Given (cmdSgl ready 0x21 [] 32768) 5 0x21 [] [] ∧ ((cmdSgl ready 0x21 [] 32768).box 5).sgl = true := by unfold Given; decide

/-! ## Patterns -/

/-- A pattern image with sections (type, core, target, bytes), each length a multiple of 8; its pool is frames 16 to 31, its
rudiment digest 0 and its wait limit 50 ms. -/
def patImage (secs : List (Nat × Nat × Nat × List Byte)) : List Byte :=
  let body := secs.flatMap (fun s => bytes64 [s.1 * 2 ^ 56 + s.2.1 * 2 ^ 48 + s.2.2.2.length, s.2.2.1] ++ s.2.2.2)
  bytes64 [0x0F249A77 * 2 ^ 32 + 2 ^ 16 + secs.length, 128 + body.length, 0, 0, 16 * 2 ^ 40 + 16 * 2 ^ 16, 0, 0, 0, 0, 0, 0, 0, 0, 0, 0, 0] ++
  body

/-- An image that verifies: core 0 declares that it serves layer 0 (R491). -/
def img0 : List Byte := patImage [(3, 0, 0, 1 :: List.replicate 479 0)]

def withPat (st : PatState) : State := { ready with
  pat := ⟨st, img0, List.replicate 32 0⟩, rud := { ready.rud with digest := List.replicate 32 0 } }

theorem test_wit_PatternCommandsStepStates_load :
    Given (give ready 0 2 0x30 0 img0) 0 0x30 [] img0 ∧ patHeaderRsv img0 = false ∧ ready.pat.st ≠ .started ∧ patBad img0 = none ∧
    ready.poolHolds img0 = true := by unfold Given; decide +kernel

/-- A header whose word 10 is not 0. -/
theorem test_wit_PatternCommandsStepStates_reserved :
    let img := img0.set 80 1
    Given (give ready 0 2 0x30 0 img) 0 0x30 [] img ∧ patHeaderRsv img = true := by unfold Given; decide +kernel

theorem test_wit_PatternCommandsStepStates_verify :
    Given (give (withPat .loaded) 0 2 0x31 0 []) 0 0x31 [] [] ∧ (withPat .loaded).pat.st = .loaded ∧ (withPat .loaded).verify = none := by unfold Given; decide +kernel

/-- A pattern whose control region for core 1 is truncated: nothing in it can be verified. -/
def faultyPat : State := { withPat .loaded with pat := ⟨.loaded, patImage [(1, 1, 0x5FFFC0, bytes64 [2 ^ 38 + 1, 0, 0, 0, 0, 0, 0, 0])], List.replicate 32 0⟩ }

/-- An op list that lies beyond the core store. -/
theorem test_wit_PatternCommandsStepStates_failure : faultyPat.verify ≠ none := by decide

theorem test_wit_PatternCommandsStepStates_start :
    Given (give (withPat .verified) 0 2 0x32 0 []) 0 0x32 [] [] ∧ (withPat .verified).pat.st = .verified ∧
    ((withPat .verified).pat.image.drop 40).take 32 = (withPat .verified).rud.digest := by unfold Given; decide

theorem test_wit_PatternCommandsStepStates_stop :
    Given (give (withPat .started) 0 2 0x33 0 []) 0 0x33 [] [] ∧ (withPat .started).pat.st = .started ∧ (withPat .started).ep.st = .idle := by unfold Given; decide

/-- What a package decodes to is opaque in part (log 13), so the clauses on its outcome have no concrete witness. -/
theorem test_wit_PatternCommandsStepStates_rudiment :
    Given (give ready 0 2 0x34 0 (natLe 8 1)) 0 0x34 [] (natLe 8 1) := by unfold Given; decide

def withHostImg (s : State) : State := { s with host := { s.host with bytes := memAt 0x1000 img0 } }
def loadArgs : List Byte := [0x1000, 156].flatMap (natLe 4)

theorem test_wit_PatternCommandsStepStates_g1 :
    GivenG1 (give (withHostImg ready) 0 1 0x10 0 loadArgs) 0 0x10 loadArgs ∧
    ((withHostImg ready).hostRead (argG1 loadArgs 0) (4 * fld (argG1 loadArgs 1) 23 0)).isSome = true ∧
    GivenG1 (give (withPat .loaded) 0 1 0x11 0 []) 0 0x11 [] ∧ GivenG1 (give (withPat .verified) 0 1 0x12 0 []) 0 0x12 [] ∧
    GivenG1 (give (withPat .started) 0 1 0x13 0 []) 0 0x13 [] := by unfold GivenG1; decide

/-! ## Sequences -/

/-- Sequence 5 asks for 512 positions of one layer and one head: grains of 512 positions, head dimension 64, BF16 keys and
values (code 1), alone in its axis. -/
def openWs (seq : Nat) : List Nat := [seq, 512 * 2 ^ 32 + 33, 2 ^ 32 + 1, 1]
def openState : State := give (withPat .started) 0 2 0x40 0 (bytes64 (openWs 5))

theorem test_wit_SequencesOpenAppendClose_open :
    Given openState 0 0x40 openMasks (bytes64 (openWs 5)) ∧ openState.seqFree_ (fld (argW (bytes64 (openWs 5)) 0) 15 0) 0 = true ∧
    openState.seqReady 0 .seqOpen = none ∧ openState.running = false ∧
    32 ≤ (bytes64 (openWs 5)).length ∧ (bytes64 (openWs 5)).length % 8 = 0 ∧ openState.openRefuse (words64 (bytes64 (openWs 5))) = none ∧
    bitAt ((words64 (bytes64 (openWs 5))).getD 0 0) 16 = false := by unfold Given; decide

def stepping (s : State) : State := { s with ep := { s.ep with st := .running } }

/-- The same while a step runs that does not name the sequence; and the waiting commands, before and after its end. -/
theorem test_wit_SequencesOpenAppendClose_running :
    let s := stepping openState
    Given s 0 0x40 openMasks (bytes64 (openWs 5)) ∧ s.seqReady 0 .seqOpen = none ∧ s.seqFree_ 5 0 = true ∧ s.running = true ∧
    s.openRefuse (openWs 5) = none ∧
    (∀ k ∈ [JobKind.seqOpen, .append], ∃ j, ({ s with mb := { s.mb with jobs := [⟨0, k, [], none, [], openWs 5⟩] } } : State).seqReady 0 k = some j) ∧
    (∀ k ∈ [JobKind.seqOpen, .append], ∃ j, ({ openState with mb := { s.mb with jobs := [⟨0, k, [], none, [], openWs 5⟩] } } : State).seqReady 0 k = some j) := by
  unfold Given
  refine ⟨by decide, by decide, by decide, by decide, by decide, ?_, ?_⟩ <;> intro k h <;>
    simp only [List.mem_cons, List.not_mem_nil, or_false] at h <;> rcases h with h | h <;> subst h <;> exact ⟨_, rfl⟩

/-- The top sequence number, and one beyond every table. -/
def openTop : State := give (withPat .loaded) 0 2 0x40 0 (bytes64 (openWs 4095))
/-- Sequence 5 open with `n` positions, before a step. -/
def opened (n : Nat) : State := { withPat .started with kv := { ready.kv with
  lens := [(5, ⟨n, 0, true, 512⟩)], hdrs := [(5, headerOf (512 * 2 ^ 32 + 33) (2 ^ 32 + 1) 1)] } }
def appendWs : List Nat := [2 ^ 32 + 5, 0x4000, 256]

theorem test_wit_SequencesOpenAppendClose_top :
    openTop.openRefuse (openWs 4095) = none ∧ openTop.openRefuse (openWs 4096) = some stBadArg := by decide

theorem test_wit_SequencesOpenAppendClose_append :
    Given (give (opened 0) 0 2 0x41 0 (bytes64 appendWs)) 0 0x41 [bits 63 32 + bits 15 0, allBits, allBits] (bytes64 appendWs) ∧
    (give (opened 0) 0 2 0x41 0 (bytes64 appendWs)).seqReady 0 .append = none ∧
    (give (opened 0) 0 2 0x41 0 (bytes64 appendWs)).seqFree_ 5 0 = true := by unfold Given; decide

/-- The last position of the sequence. -/
theorem test_wit_SequencesOpenAppendClose_go :
    (opened 511).lens 5 = ⟨511, 0, true, 512⟩ ∧ (opened 511).stepNames 5 = false ∧ 511 + 1 ≤ 512 ∧
    256 = (geomOf ((opened 511).hdr 5)).appendBytes 511 1 ∧ (PagePrep.range ⟨opened 511, [], 0⟩ 5 1).code = 0 ∧
    (PagePrep.range ⟨opened 511, [], 0⟩ 5 1).waits = [] ∧ (opened 511).running = false ∧ (stepping (opened 511)).running = true ∧
    (stepping (opened 511)).stepNames 5 = false ∧ (PagePrep.range ⟨stepping (opened 511), [], 0⟩ 5 1).code = 0 := by decide

/-- The page of the next position is in HOST. -/
def pageInHost : State := { opened 1 with kv := { (opened 1).kv with
  map := [(mapKey 5 0, 1)], recs := [(0, some ⟨0x100, 0, 0, false, false, 0, 1, 0, 0, false, false⟩)] } }

theorem test_wit_SequencesOpenAppendClose_wait :
    (PagePrep.range ⟨pageInHost, [], 0⟩ 5 1).code = 0 ∧ (PagePrep.range ⟨pageInHost, [], 0⟩ 5 1).waits ≠ [] := by decide

theorem test_wit_SequencesOpenAppendClose_now :
    ((opened 1).hostRead 0x4000 ((geomOf ((opened 1).hdr 5)).appendBytes ((opened 1).lens 5).committed 1)).isSome = true ∧
    ((opened 1).hdr 5).length = 8 ∧ ((opened 1).lens 5).isOpen = true := by decide

theorem test_wit_SequencesOpenAppendClose_close :
    Given (give pageInHost 0 2 0x42 0 (bytes64 [5])) 0 0x42 [bits 15 0] (bytes64 [5]) ∧ pageInHost.stepNames 5 = false ∧
    pageInHost.mb.jobs = [] ∧ pageInHost.regionPages 5 = [(0, 0)] ∧ pageInHost.closeWaits 5 = false ∧
    Given (give (stepping pageInHost) 0 2 0x42 0 (bytes64 [5])) 0 0x42 [bits 15 0] (bytes64 [5]) ∧
    (give (stepping pageInHost) 0 2 0x42 0 (bytes64 [5])).closeWaits 5 = true := by unfold Given; decide

def newArgs : List Byte := [5, 512, 33].flatMap (natLe 4)
def putArgs : List Byte := [5, 1, 0x4000, 64].flatMap (natLe 4)

theorem test_wit_SequencesOpenAppendClose_g1 :
    GivenG1 (give (withPat .started) 0 1 0x20 0 newArgs) 0 0x20 newArgs ∧ (withPat .started).openRefuse (seqNewWords 5 512 (33)) = none ∧
    GivenG1 (give (opened 0) 0 1 0x21 0 putArgs) 0 0x21 putArgs ∧ GivenG1 (give (opened 0) 0 1 0x22 0 (natLe 4 5)) 0 0x22 (natLe 4 5) ∧
    (opened 0).closeWaits 5 = false ∧ (stepping (opened 0)).closeWaits 5 = true ∧
    GivenG1 (give (stepping (opened 0)) 0 1 0x22 0 (natLe 4 5)) 0 0x22 (natLe 4 5) := by unfold GivenG1; decide

def lensArgs (first cnt : Nat) : List Byte := bytes64 [cnt * 2 ^ 16 + first]

/-- The last 254 entries of the table. -/
theorem test_wit_SequenceLengthsAreTable72 :
    Given (give (opened 3) 0 2 0x43 0 (lensArgs 3842 254)) 0 0x43 [bits 31 0] (lensArgs 3842 254) ∧
    fld (argW (lensArgs 3842 254) 0) 15 0 + fld (argW (lensArgs 3842 254) 0) 31 16 ≤ 4096 ∧ fld (argW (lensArgs 3842 254) 0) 31 16 ≤ 254 := by unfold Given; decide

theorem test_wit_SequenceLengthsAreTable72_g1 :
    GivenG1 (give (opened 3) 0 1 0x23 0 (natLe 4 (254 * 256 + 2))) 0 0x23 (natLe 4 (254 * 256 + 2)) ∧ 254 + 2 ≤ 256 := by unfold GivenG1; decide

/-! ## Steps -/

/-- Core 3 takes part in the step. -/
def stepper (n : Nat) : State := { opened n with cores := [(3, { Core.init with ctl := some 0x5FFFC0, flags := 9, semF := [(1, 4)] })] }
/-- STEP_RUN and STEP_COMMIT of epoch 1 with one sequence and count, and no bound. -/
def runWs (seq n : Nat) : List Nat := [1, 1, n * 2 ^ 32 + seq]
def stepState (n : Nat) : State := give (stepper n) 0 2 0x50 0 (bytes64 (runWs 5 1))

theorem test_wit_StepRunStartsEpoch_row :
    Given ((stepState 511).at 9) 0 0x50 [allBits, bits 15 0] (bytes64 (runWs 5 1)) ∧ stepReserved (runWs 5 1) = false ∧
    stepForm (words64 (bytes64 (runWs 5 1))) (bytes64 (runWs 5 1)).length = true := by unfold Given; decide

theorem test_wit_StepRunStartsEpoch_g1 :
    GivenG1 ((give (stepper 0) 0 1 0x30 0 ([5, 1].flatMap (natLe 4))).at 9) 0 0x30 ([5, 1].flatMap (natLe 4)) := by unfold GivenG1; decide

/-- The last position that MAXLEN leaves. -/
theorem test_wit_StepRunStartsEpoch_now :
    (stepper 511).stepRefuse 0 (runWs 5 1) = none ∧ (PagePrep.range ⟨stepper 511, [], 0⟩ 5 1).code = 0 ∧
    (PagePrep.range ⟨stepper 511, [], 0⟩ 5 1).waits = [] ∧ stepSeqs (runWs 5 1) = [(5, 1)] ∧
    (PagePrep.range ⟨stepper 511, [], 0⟩ 5 1).s.dram.rewrite = [] ∧
    (let s := { stepper 511 with dram := { ready.dram with rewrite := [7] } }
     s.stepRefuse 0 (runWs 5 1) = none ∧ (PagePrep.range ⟨s, [], 0⟩ 5 1).code = 0 ∧ (PagePrep.range ⟨s, [], 0⟩ 5 1).s.dram.rewrite ≠ []) := by decide +kernel

theorem test_wit_StepRunStartsEpoch_begin :
    ((stepSeqs (runWs 5 1)).map Prod.fst).Nodup ∧ (∀ e ∈ stepSeqs (runWs 5 1), ((stepper 511).lens e.1).isOpen = true) ∧
    (stepper 511).participants = [3] := by decide

theorem test_wit_StepRunStartsEpoch_refused : (stepper 512).stepRefuse 0 (runWs 5 1) = some stBadArg := by decide

/-- The step's page is in HOST, or can get no frame: the pool's frames are taken by a page without a home. -/
def stepInHost : State := { stepper 1 with kv := pageInHost.kv }
def noFrame : State := { stepInHost with pat := { stepInHost.pat with image := bytes64 [0, 0, 0, 0, 0] } }

theorem test_wit_StepRunStartsEpoch_wait :
    stepInHost.stepRefuse 0 (runWs 5 1) = none ∧ (PagePrep.range ⟨stepInHost, [], 0⟩ 5 1).code = 0 ∧
    (PagePrep.range ⟨stepInHost, [], 0⟩ 5 1).waits ≠ [] := by decide +kernel

theorem test_wit_StepRunStartsEpoch_fails :
    noFrame.stepRefuse 0 (runWs 5 1) = none ∧ (PagePrep.range ⟨noFrame, [], 0⟩ 5 1).code ≠ 0 := by decide

/-- A step of epoch 1 that named sequence 5 with two positions, at its end or still running. -/
def atDone (st : EpSt) : State := { opened 4 with
  kv := { (opened 4).kv with lens := [(5, ⟨4, 2, true, 512⟩)] }, ep := { ready.ep with st := st, seqs := [(5, 2)] } }

theorem test_wit_StepCommitAndAbort_row :
    Given ((give (atDone .done) 0 2 0x51 0 (bytes64 (runWs 5 2))).at 9) 0 0x51 [allBits, bits 15 0] (bytes64 (runWs 5 2)) ∧
    stepReserved (runWs 5 2) = false ∧ stepForm (runWs 5 2) 24 = true ∧ fld ((runWs 5 2).getD 1 0) 15 8 = 0 := by unfold Given; decide

theorem test_wit_StepCommitAndAbort_g1 :
    GivenG1 ((give (atDone .done) 0 1 0x31 0 ([5, 2].flatMap (natLe 4))).at 9) 0 0x31 ([5, 2].flatMap (natLe 4)) := by unfold GivenG1; decide

/-- The counts at most PROV, and one above. -/
theorem test_wit_StepCommitAndAbort_taken :
    (atDone .done).commitRefuse 1 [(5, 2)] = none ∧ (atDone .done).commitRefuse 1 [(5, 3)] = some stBadArg ∧
    (atDone .running).commitRefuse 1 [(5, 2)] = some stNotInState := by decide

theorem test_wit_StepCommitAndAbort_abort :
    Given ((give (atDone .running) 0 2 0x52 0 (bytes64 [1])).at 9) 0 0x52 [allBits] (bytes64 [1]) ∧ argW (bytes64 [1]) 0 = (atDone .running).ep.next ∧
    (atDone .running).ep.st = .running ∧ GivenG1 ((give (atDone .done) 0 1 0x32 0 []).at 9) 0 0x32 [] ∧ (atDone .done).ep.st = .done := by unfold Given GivenG1; decide

/-! ## Tiers -/

/-- Sequence 5 with its page 0 mapped to record 7. -/
def withPage (p : Page) : State := { opened 1 with kv := { (opened 1).kv with map := [(mapKey 5 0, 8)], recs := [(7, some p)] } }
/-- A page: home, frame, state, dirty, EVPEND, pins, shared by one region. -/
def pageAs (home frame st : Nat) (dirty evpend : Bool) (pin : Nat) : Page := ⟨home, frame, st, dirty, evpend, pin, 1, 0, 0, false, false⟩
def tierBs (force : Nat) : List Byte := bytes64 [5, 1 + force * 2 ^ 32]
def tier (op force : Nat) : State := give (withPage (pageAs 9 20 2 true false 0)) 0 2 op 0 (tierBs force)

theorem test_wit_TierCommandsWorkPageByPage_rows :
    (tier 0x60 0).tierRefuse (tierArgs (tierBs 0)) (tierBs 0).length = none ∧ Given (tier 0x60 0) 0 0x60 (tierMasks false) (tierBs 0) ∧
    Given (tier 0x62 0) 0 0x62 (tierMasks false) (tierBs 0) ∧ Given (tier 0x63 0) 0 0x63 (tierMasks false) (tierBs 0) := by unfold Given; decide

theorem test_wit_TierCommandsWorkPageByPage_evict :
    Given ((tier 0x61 0).at 3) 0 0x61 (tierMasks true) (tierBs 0) ∧ (tierArgs (tierBs 0)).force = false ∧
    Given ((tier 0x61 1).at 3) 0 0x61 (tierMasks true) (tierBs 1) ∧ (tierArgs (tierBs 1)).force = true ∧
    (tier 0x61 1).tierRefuse (tierArgs (tierBs 1)) (tierBs 1).length = none := by unfold Given; decide

theorem test_wit_TierCommandsWorkPageByPage_prefetch :
    (withPage (pageAs 9 0 0 false false 0)).page 7 = some (pageAs 9 0 0 false false 0) ∧ (withPage (pageAs 9 0 0 false false 0)).freeFrame = some 16 ∧
    (withPage (pageAs 9 20 2 false false 0)).page 7 = some (pageAs 9 20 2 false false 0) := by decide

theorem test_wit_TierCommandsWorkPageByPage_evicts :
    (withPage (pageAs 0 20 2 true false 0)).page 7 = some (pageAs 0 20 2 true false 0) ∧
    (withPage (pageAs 9 20 2 true false 1)).page 7 = some (pageAs 9 20 2 true false 1) ∧
    (withPage (pageAs 9 20 2 true true 0)).page 7 = some (pageAs 9 20 2 true true 0) ∧ (withPage (pageAs 9 20 2 false true 0)).mb.jobs = [] ∧
    (withPage (pageAs 9 20 1 false false 0)).page 7 = some (pageAs 9 20 1 false false 0) := by decide

/-- The largest pin counts. -/
theorem test_wit_TierCommandsWorkPageByPage_pins :
    (pageAs 9 20 2 false false 65534).pin < 65535 ∧ 65535 ≤ (pageAs 9 20 2 false false 65535).pin ∧ (pageAs 9 20 3 false false 0).st = 3 ∧
    1 < (pageAs 9 20 2 false false 2).pin ∧ 0 < (pageAs 9 20 2 false false 1).pin ∧ (pageAs 9 20 2 false false 1).evpend = false ∧ (withPage (pageAs 9 20 3 false false 0)).mb.jobs = [] := by decide

/-- The page's copy is in flight. -/
def inFlight (p : Page) : State := { withPage p with kv := { (withPage p).kv with copyq := [(7, 0)] } }

theorem test_wit_PageCopiesEnd_promotion :
    Sound (inFlight (pageAs 9 20 1 false false 0)) ∧ (pageAs 9 20 1 false false 0).share ≠ 0 ∧
    7 ∈ (inFlight (pageAs 9 20 1 false false 0)).copying ∧ (inFlight (pageAs 9 20 1 false false 0)).dram.closed = false ∧
    (inFlight (pageAs 9 20 1 false false 0)).tmvWaiters 7 = [] ∧ (inFlight (pageAs 9 20 1 false false 0)).hostBad (9 * 4096) pageBytes = false ∧
    7 ∉ (withPage (pageAs 9 20 1 false false 0)).copying :=
  ⟨sound_of_plain (by decide) (by decide) (fun _ => rfl), by decide, by decide, by decide, by decide, by decide, by decide⟩

theorem test_wit_PageCopiesEnd_eviction :
    Sound (inFlight (pageAs 9 20 3 true false 0)) ∧ 7 ∈ (inFlight (pageAs 9 20 3 true false 0)).copying ∧
    (inFlight (pageAs 9 20 3 true false 0)).tmvWaiters 7 = [] ∧ (inFlight (pageAs 9 20 3 true false 0)).dram.errs = [] ∧
    (inFlight (pageAs 9 20 3 true false 0)).hostBad (9 * 4096) pageBytes = false :=
  ⟨sound_of_plain (by decide) (by decide) (fun _ => rfl), by decide, by decide, by decide, by decide⟩

theorem test_wit_PageCopiesEnd_writes :
    (⟨9, 20, 2, true, true, 0, 1, 0, 1, false, false⟩ : Page).inflight ≠ 0 ∧ 5 ≤ max (withPage (pageAs 9 20 2 true true 0)).now 5 := by decide

/-! ## Carillons -/

/-- A plan of one op and one tree along the sequence axis over m members in a row, member 0 its root. -/
def planBytes (m : Nat) : List Byte :=
  let es := 0xFFFF0000 :: (List.range (m - 1)).map (fun i => i * 65536 + 1)
  bytes64 [2 ^ 32 + 2 ^ 16 + 1, 0, 4096, 0, 0, 0, 0, 0] ++ bytes64 [1, 16, 0, 0] ++ bytes64 [2] ++ es.flatMap (natLe 4) ++
  List.replicate (m % 2 * 4) 0

/-- The payload of CARILLON_FORM for m members (at most 4) along the x axis of a torus, carillon 7. -/
def carBytes (base self m : Nat) : List Byte :=
  bytes64 [base, 7 * 2 ^ 32 + self * 2 ^ 16, m * 2 ^ 48, 0, 0, (planBytes m).length * 2 ^ 32, 0, 0] ++ bytes64 (List.range m) ++
  (List.range m).flatMap (natLe 2) ++ List.replicate (8 - 2 * m) 0 ++ planBytes m

/-- The carillon record of that payload, its digest not computed. -/
def carRec (self m : Nat) : CarRec := ⟨[1, 7 * 2 ^ 32 + self * 2 ^ 16, m * 2 ^ 48, 0, 0, (planBytes m).length * 2 ^ 32, 0, 0],
  List.range m, List.range m, planBytes m, List.replicate 32 1⟩

/-- A device at place x of a row of m. -/
def placed (x m : Nat) : State := { ready with pol := { ready.pol with routing := some (x + m * 2 ^ 24 + 2 ^ 32 + 2 ^ 40) } }
/-- A member of such a carillon. -/
def member (x m : Nat) : State := { placed x m with car := { ready.car with member := true, rec? := some (carRec x m) } }
def formCmd : State := give (placed 1 2) 5 3 0x70 0 (carBytes 1 1 2)

theorem test_wit_CarillonFormsByExchange_form :
    Given (formCmd.at 9) 5 0x70 [] (carBytes 1 1 2) ∧ formCmd.torus = some ⟨(1, 0, 0), (2, 1, 1)⟩ ∧ formCmd.car.member = false ∧
    formCmd.ep.st ≠ .running ∧ carReserved (carBytes 1 1 2) (carLoose (carBytes 1 1 2)) = false ∧ carRecOf (carBytes 1 1 2) = some { carRec 1 2 with digest := [] } ∧
    (formCmd.at 9).carBad (carBytes 1 1 2) { carRec 1 2 with digest := [] } ⟨(1, 0, 0), (2, 1, 1)⟩
      (fun b => decide (formCmd.ep.ranMax ≤ b)) = false ∧
    formCmd.carRejected { carRec 1 2 with digest := [] } = false := by unfold Given; decide +kernel

/-- Member 0 of two has its own FORM notice, or a differing one. -/
def leadForms (cid : Nat) : State := { placed 0 2 with car := { ready.car with
  forming := some (carRec 0 2), forms := [(0, cid, List.replicate 32 1)] } }
/-- A command that waits for FORMED. -/
def formJobOf (kind : JobKind) : Job := ⟨5, kind, [], some 1000, [], [0]⟩
def formWaits : State := { placed 1 2 with
  car := { ready.car with forming := some (carRec 1 2) }, mb := { formCmd.mb with jobs := [formJobOf .form] } }

theorem test_wit_CarillonFormsByExchange_notices :
    (leadForms 7).car.forming = some (carRec 0 2) ∧ (carRec 0 2).self = 0 ∧ (carRec 0 2).count = 2 ∧ (carRec 0 2).cid = 7 ∧
    (carRec 0 2).digest = List.replicate 32 1 ∧ (leadForms 8).car.forms.find? (fun f => f.1 == 0) ≠ some (0, 7, List.replicate 32 1) := by decide

theorem test_wit_CarillonFormsByExchange_formed :
    formWaits.formJob = some (formJobOf .form) ∧ formWaits.car.forming = some (carRec 1 2) ∧ (formJobOf .form).kind = .form ∧ (formJobOf .form).units = [] ∧
    (formJobOf .form).deadline = some 1000 ∧ 1000 ≤ max formWaits.now 1000 := by decide

theorem test_wit_CarillonFormsByExchange_leave :
    Given (give (member 1 2) 0 3 0x72 0 []) 0 0x72 [] [] ∧ (member 1 2).car.member = true ∧ (member 1 2).ep.st ≠ .running ∧
    (member 0 2).selfIdx = 0 := by unfold Given; decide

/-- The standby of a current mirrored pair, with its twin's record; `k` is the origin of a recorded knell. -/
def standby (k : Option (Nat × Nat)) : State := { placed 1 2 with
  car := { ready.car with rec? := some (carRec 1 2) }, twin := { Twin.init with st := 1, role := 2, nextEpoch := 9, knell := k } }
def switchCmd (k : Option (Nat × Nat)) : State := give (standby k) 0 3 0x71 0 (bytes64 [0])
def reMasks : List Nat := [bits 47 32 + 1]

theorem test_wit_ReformCommandsBegin_switch :
    Given ((switchCmd none).at 9) 0 0x71 reMasks (bytes64 [0]) ∧ (standby none).ep.quiet = true ∧ (standby none).twin.st = 1 ∧
    (standby none).twin.mode = 0 ∧ (standby none).twin.role = 2 ∧ (standby none).car.rec? = some (carRec 1 2) ∧
    (standby none).twin.knell.any (fun k => k.2 == (carRec 1 2).self) = false ∧
    (standby (some (9, 1))).twin.knell.any (fun k => k.2 == (carRec 1 2).self) = true := by unfold Given; decide +kernel

/-- SHRINK from two members to one, with a new run of 1 for sequence 5. -/
def shrinkBs : List Byte := bytes64 [2 ^ 32 + 1] ++ carBytes 1 0 1 ++ bytes64 [65536 + 5]
def shrinkState : State := give { member 0 2 with kv := (opened 4).kv } 0 3 0x71 0 shrinkBs
def newRec : CarRec := { carRec 0 1 with digest := [] }

theorem test_wit_ReformCommandsBegin_shrink :
    Given (shrinkState.at 9) 0 0x71 reMasks shrinkBs ∧ bitAt (argW shrinkBs 0) 0 = true ∧ shrinkState.ep.quiet = true ∧
    carReserved (shrinkBs.drop 8) (carLoose (shrinkBs.drop 8)) = false ∧ (shrinkState.at 9).patternOther newRec = false ∧
    shrinkState.car.rec? = some (carRec 0 2) ∧ shrinkState.torus = some ⟨(0, 0, 0), (2, 1, 1)⟩ ∧
    shrinkBs.length = 8 + carPayloadLen (shrinkBs.drop 8) + 8 * fld (argW shrinkBs 0) 47 32 ∧
    words64 ((shrinkBs.drop 8).drop (carPayloadLen (shrinkBs.drop 8))) = [65536 + 5] ∧ shrinkState.openSeqs = [5] ∧
    carRecOf ((shrinkBs.drop 8).take (carPayloadLen (shrinkBs.drop 8))) = some newRec ∧
    (shrinkState.at 9).carBad (shrinkBs.drop 8) newRec ⟨(0, 0, 0), (2, 1, 1)⟩ (fun b => b == shrinkState.ep.next) = false ∧
    shrinkBad (carRec 0 2) newRec = false := by unfold Given; decide +kernel

def activeSide : State := { ready with twin := { Twin.init with st := 1, role := 1, valid := true } }
def roleDue : State := { ready with now := 50, twin := { Twin.init with st := 1, role := 1, valid := true, roleSent := some 50 } }

theorem test_wit_ReformCommandsBegin_role :
    activeSide.twin.roleSent = none ∧ activeSide.twin.st ≠ 0 ∧ activeSide.twin.mode = 0 ∧ activeSide.twin.role = 1 ∧
    roleDue.twin.roleSent = some 50 ∧ 50 + 100000 ≤ max roleDue.now 100050 ∧ roleDue.twin.st = 1 := by decide

def lateMember : State := give { member 0 2 with beat := { ready.beat with num := 1024 } } 0 3 0x73 0 (bytes64 [1])

theorem test_wit_LatenessIsReported_read :
    Given lateMember 0 0x73 [1] (bytes64 [1]) ∧ argW (bytes64 [1]) 0 = 1 ∧ lateMember.selfIdx = 0 ∧
    Given (give (member 1 2) 0 3 0x73 0 (bytes64 [0])) 0 0x73 [1] (bytes64 [0]) ∧ (member 1 2).car.member = true := by unfold Given; decide

/-- The first beat at which the window is over. -/
theorem test_wit_LatenessIsReported_window :
    lateMember.car.member = true ∧ lateMember.policy 0x0040 = 1024 ∧ lateMember.beatNo - lateMember.car.winFrom = 1024 ∧
    (let s := { lateMember with beat := { ready.beat with num := 1023 }, pol := { ready.pol with late := [(0x0040, 2048)] } }
     s.beatNo - s.car.winFrom < s.policy 0x0040 ∧ s.pol.late = [(0x0040, 2048)]) := by decide

def oneWindow : State := { member 0 2 with car := { (member 0 2).car with windows := [⟨5, 3, 1, 0, [(0, 9)]⟩] } }

/-- The record of member 1 alone, and that of member 0 which completes the set. -/
theorem test_wit_LatenessIsReported_records :
    (member 0 2).memberCount = 2 ∧ oneWindow.selfIdx = 0 ∧ (1 < 2) ∧ oneWindow.car.windows = [⟨5, 3, 1, 0, [(0, 9)]⟩] := by decide

def halted (ms : List Nat) : State := { member 0 2 with now := 30, car := { (member 0 2).car with haltedBy := ms, waitStop := some 10 } }

theorem test_wit_HaltNoticesPauseMember :
    (halted [1]).car.member = true ∧ 1 < (halted [1]).memberCount ∧ NatSet.has (halted [1]).car.haltedBy 1 = true ∧
    NatSet.remove (halted [1]).car.haltedBy 1 = [] ∧ NatSet.has (halted [0, 1]).car.haltedBy 1 = true ∧
    NatSet.remove (halted [0, 1]).car.haltedBy 1 ≠ [] := by decide

/-- The largest axes that a descriptor can give: 256 tensor and 80 stage indices, one sequence index, hence 20,480 members. -/
def axesRec : CarRec := ⟨[1, 0, 2 ^ 48 + 79 * 2 ^ 40 + 255 * 2 ^ 32], [], [], [], []⟩

theorem test_wit_MemberAxes :
    carRecOf (carBytes 1 1 2) = some { carRec 1 2 with digest := [] } ∧ axesRec.count = 20480 ∧
    axesRec.axes 20479 = (255, 79, 0) := by decide +kernel

/-! ## Twins -/

def ptPort : PortS := { PortS.initPt with st := .full }
/-- A device with PT trained. -/
def withPt (tw : Twin) : State := { ready with ports := [(6, ptPort)], twin := tw }
def twinCmd (tw : Twin) (op : Nat) (ws : List Nat) : State := give (withPt tw) 0 3 op 0 (bytes64 ws)
def likePeer : Peer := ⟨false, false, false, true, true, true, true, true⟩
def staleTwin : Twin := { Twin.init with st := 2, role := 1, valid := true, cause := 3 }

theorem test_wit_TwinCommandsChangePair_pair :
    Given (twinCmd Twin.init 0x80 []) 0 0x80 [] [] ∧ ((withPt Twin.init).port .pt).trained = true ∧ (withPt Twin.init).twin.st = 0 ∧
    likePeer.paired = false ∧ likePeer.stepping = false ∧ likePeer.member = false ∧ likePeer.sameSilicon = true ∧
    likePeer.sameProfile = true ∧ likePeer.sameDigests = true ∧ likePeer.sameRouting = true ∧ likePeer.journals = true := by unfold Given; decide

theorem test_wit_TwinCommandsChangePair_resync :
    Given (twinCmd staleTwin 0x81 []) 0 0x81 [] [] ∧ (withPt staleTwin).twin.st = 2 ∧
    ((twinCmd staleTwin 0x81 []).await 0 .resync [] [] []).resumeUnit none true = none ∧
    ((twinCmd { staleTwin with valid := false } 0x81 []).await 0 .resync [] [] []).resumeUnit (some 191) true = some 191 ∧
    (withPt Twin.init).twin.st ≠ 2 := by unfold Given; decide

theorem test_wit_TwinCommandsChangePair_unpair :
    Given (twinCmd staleTwin 0x82 []) 0 0x82 [] [] ∧ (withPt staleTwin).twin.st ≠ 3 ∧ (withPt staleTwin).car.member = false := by unfold Given; decide

def currentTwin (mode role : Nat) : Twin := { Twin.init with st := 1, mode := mode, role := role, valid := role == 1 }
def modeCmd (mode v : Nat) : State := give { withPt (currentTwin mode 1) with car := (member 0 2).car } 0 3 0x83 0 (bytes64 [v])

theorem test_wit_TwinCommandsChangePair_mode :
    Given (modeCmd 0 1) 0 0x83 [3] (bytes64 [1]) ∧ argW (bytes64 [1]) 0 % 2 = 1 ∧ (modeCmd 0 1).twin.mode = 0 ∧
    (modeCmd 0 1).car.member = true ∧ (modeCmd 0 1).twin.st = 1 ∧ (modeCmd 0 1).ep.st = .idle ∧
    Given (modeCmd 1 0) 0 0x83 [3] (bytes64 [0]) ∧ Given (modeCmd 1 2) 0 0x83 [3] (bytes64 [2]) ∧ (modeCmd 1 2).twin.mode = 1 := by unfold Given; decide

def resyncing (u : Nat) (valid : Bool) : State := withPt { Twin.init with st := 3, role := 1, valid := valid, wmark := u, resync := some (u, 0) }

/-- The last two units. -/
theorem test_wit_ResyncUnitsAdvance :
    (resyncing 190 false).twin.st = 3 ∧ (resyncing 190 false).twin.paused = false ∧ (resyncing 190 false).twin.resync = some (190, 0) ∧
    (resyncing 191 false).twin.resync = some (191, 0) ∧ (resyncing 190 false).twin.valid = false ∧ (resyncing 191 true).twin.valid = true := by decide

def standbyPt : State := withPt (currentTwin 0 2)
def mirrorLate : State := { withPt (currentTwin 0 1) with twin := { currentTwin 0 1 with mirror := [(3, 50)] } }
/-- Core 4's TMV stream is halted on a fatal error of a DRAM granule. -/
def haltRun : Run := ⟨⟨0, [], []⟩, 0, 0, true, [], [], 0, false, 0, [], [], none, [], false, false, 0, 0,
  some ⟨0x20, 0, 0x1000, 3, 0, 0, 0, 1024, 0⟩, none, [], 0, [], false, 0⟩
def haltedCore : State := { inEpoch (withPt (currentTwin 0 1)) .running with cores := [(4, { Core.init with engs := [(6, some haltRun)] })] }

theorem test_wit_TwinTrafficActs_mirror :
    standbyPt.twin.takes = true ∧ standbyPt.dram.closed = false ∧ (dramBytes - 4) + (natLe 4 1).length ≤ dramBytes ∧
    (withPt (currentTwin 0 1)).twin.takes = false ∧
    mirrorLate.twin.st = 1 ∧ mirrorLate.ep.ackDue = false ∧ mirrorLate.twin.mirror = [(3, 50)] ∧ 1000000 + 50 ≤ max mirrorLate.now 1000050 := by decide

theorem test_wit_TwinTrafficActs_refetch :
    65536 ≤ 65536 ∧ dramBytes - 65536 + 65536 ≤ dramBytes ∧ standbyPt.twin.st = 1 ∧ (withPt staleTwin).twin.st ≠ 1 ∧
    haltedCore.refetching 3 0x1000 = [4] ∧ haltedCore.eng 4 6 = some haltRun ∧ standbyPt.dram.errs = [] ∧ standbyPt.dram.poison = [] ∧
    standbyPt.dram.degraded = [] := by decide

theorem test_wit_TwinTrafficActs_changes :
    standbyPt.twin.takes = true ∧ (withPt (currentTwin 0 1)).twin.st = 1 ∧
    ((withPt { currentTwin 0 1 with paused := true }).port .pt).trained = true ∧ (withPt { currentTwin 0 1 with paused := true }).twin.paused = true := by decide

/-! ## Epochs -/

/-- The last core has completed its list; mailbox 5 holds the STEP_RUN. -/
def stepJob : Job := ⟨5, .step, [], none, [], []⟩
def ended (poison : Bool) (due : Option (Nat × List (Nat × Nat))) : State := { opened 4 with
  mb := { (give ready 5 2 0x50 0 []).mb with jobs := [stepJob] },
  cores := [(3, { Core.init with ctl := some 0, done := true, flags := 5 })],
  ep := { ready.ep with st := .running, seqs := [(5, 2)], poison := poison, voteDue := due } }

theorem test_wit_StepEndCompletes :
    ((ended false none).at 9).stepEnded = true ∧ (ended false none).mb.jobs.filter (fun j => j.kind == .step) = [stepJob] ∧
    (ended false none).ep.voteDue = none ∧ ((ended true (some (1, [(5, 2)]))).at 9).stepEnded = true ∧
    (ended true (some (1, [(5, 2)]))).twin.st = 0 ∧ (ended false none).ep.abortDue = none ∧ (ready.at 9).stepEnded = false ∧
    (let s := { ended false none with ep := { (ended false none).ep with abortDue := some 1 } }
     (s.at 9).stepEnded = true ∧ s.ep.abortDue = some s.ep.next ∧ s.mb.jobs.filter (fun j => j.kind == .step) = [stepJob]) := by decide

def doneWith (tw : Twin) (due : Option (Nat × List (Nat × Nat))) (ack : Bool) : State :=
  { atDone .done with twin := tw, ep := { (atDone .done).ep with voteDue := due, ackDue := ack } }
def cs2 : List (Nat × Nat) := [(5, 2)]

theorem test_wit_VotesFollowPrepare_alone :
    (doneWith Twin.init none false).twin.st = 0 ∧ 1 = (doneWith Twin.init none false).ep.next ∧ (doneWith Twin.init none false).ep.st = .done ∧
    ready.twin.standby = false ∧ ready.ep.st = .idle ∧ standbyPt.twin.standby = true := by decide

theorem test_wit_VotesFollowPrepare_mirror :
    (doneWith (currentTwin 0 1) none false).twin.mirroring = true ∧ (doneWith (currentTwin 0 1) none false).twin.paused = false ∧
    (doneWith (currentTwin 0 1) none false).ep.ackDue = false ∧ (doneWith (currentTwin 0 1) (some (1, cs2)) true).ep.ackDue = true ∧
    (doneWith (currentTwin 0 1) (some (1, cs2)) true).ep.voteDue = some (1, cs2) := by decide

theorem test_wit_VotesFollowPrepare_shadow :
    (doneWith (currentTwin 1 1) (some (1, cs2)) false).twin.shadow = true ∧ (doneWith (currentTwin 1 1) (some (1, cs2)) false).ep.knell = none ∧
    (doneWith (currentTwin 1 1) (some (1, cs2)) false).ep.voteDue = some (1, cs2) ∧
    (doneWith (currentTwin 1 1) none false).ep.voteDue = none ∧ (doneWith (currentTwin 1 1) none false).ep.st = .done := by decide

def commitJ : Job := ⟨5, .commit, [], none, [], [1]⟩
/-- The lead of two with a commit of epoch 1 in progress. -/
def leading (votes : List (Nat × Bool)) (acks : List Nat) (dec : Option (Nat × Bool)) : State :=
  let s := member 0 2
  { s with mb := { (give ready 5 2 0x51 0 []).mb with jobs := [commitJ] }, ep := { s.ep with st := .done },
           lead := ⟨[], votes, acks, dec, [], 0⟩ }

/-- The votes missing, complete and split; the acknowledgements; the commit limit of 5 ms. -/
theorem test_wit_LeadDecidesByVotes :
    (leading [] [] none).commitJob = some commitJ ∧ (leading [] [] none).isLead = true ∧ (leading [] [] none).lead.decided = none ∧
    commitJ.args.getD 0 0 = 1 ∧ 1 < (leading [] [] none).memberCount ∧ (leading [(0, true)] [] none).lead.votes.length + 1 = 2 ∧
    (∀ v ∈ (leading [(0, true)] [] none).lead.votes, v.1 ≠ 1 ∧ v.2 = true) ∧ (leading [] [] none).lead.votes.length + 1 < 2 ∧ (leading [] [0] (some (1, true))).lead.decided = some (1, true) ∧
    ((leading [] [] none).at 5000000).commitLimit ≤ max (leading [] [] none).now 5000000 - (leading [] [] none).lead.commitAt := by decide

def preparedFor (e : Nat) : State := { atDone .prepared with ep := { (atDone .prepared).ep with prep := some (e, [(5, 1)]), next := e } }

theorem test_wit_LeadDecidesByVotes_lost :
    (preparedFor 1).ep.st = .prepared ∧ (preparedFor 1).ep.prep = some ((preparedFor 1).ep.next, [(5, 1)]) ∧
    ((preparedFor 1).at 5000000).commitLimit ≤ max (preparedFor 1).now 5000000 - (preparedFor 1).ep.prepAt := by decide

theorem test_wit_DecisionsChangeLengths :
    (preparedFor 1).ep.st = .prepared ∧ (preparedFor 1).ep.prep = some (1, [(5, 1)]) ∧ (preparedFor 1).twin.standby = false ∧
    (preparedFor 1).reformJob = none ∧ (atDone .running).ep.st = .running ∧ (atDone .running).twin.standby = false ∧ (atDone .running).reformJob = none ∧ distinct (([(5, 1)] : List (Nat × Nat)).map Prod.fst) = true := by decide

def knell1 : KnellMsg := ⟨7, 2, 1, 0x20, 0x05, 1, 7, 1⟩
def inStep : State := { ended false none with
  car := (member 0 2).car
  ev := { ready.ev with snareNo := 4, snares := [(0, []), (1, []), (2, []), (3, [])] } }

theorem test_wit_KnellStopsStep :
    Port.pxn ≠ .pt ∧ inStep.car.member = true ∧ inStep.ep.st ≠ .idle ∧ knell1.epoch = inStep.ep.next ∧ inStep.ep.knell = none ∧ (preparedFor 1).ep.st = .prepared ∧
    ready.ep.st = .idle ∧ ready.ep.knell = none ∧ standbyPt.twin.mirrorStandby = true := by decide

/-- After a knell at time 10: not quiescent. -/
def afterKnell (sent : Option Nat) (qs : List Quiet) : State :=
  let s := member 0 2
  { s with ep := { s.ep with quiet := false, knell := some (knell1, 10), orig := 3, absorbed := 3, quietSent := sent },
           lead := { s.lead with quiets := qs } }
def checked (tw : Twin) : State := { ready with twin := tw, ep := { ready.ep with selfCheck := true } }

theorem test_wit_QuiescenceEndsEpoch_send :
    (afterKnell none []).ep.knell = some (knell1, 10) ∧ (afterKnell none []).ep.quiet = false ∧ (afterKnell none []).routerBusy = false ∧
    (afterKnell none []).ep.quietSent ≠ some (afterKnell none []).ep.absorbed ∧
    (afterKnell (some 3) []).ep.quietSent = some (afterKnell (some 3) []).ep.absorbed := by decide

/-- The last moment at which the sums are compared. -/
theorem test_wit_QuiescenceEndsEpoch_lead :
    (afterKnell none []).isLead = true ∧ knell1.epoch = 1 ∧ 1 < (afterKnell none []).memberCount ∧
    (afterKnell none [⟨0, 1, 3, 3, 0, none⟩]).lead.quiets.length + 1 = 2 ∧ max (afterKnell none []).now 500010 - 10 ≤ 500000 := by decide

theorem test_wit_QuiescenceEndsEpoch_end :
    (afterKnell none []).ep.knell = some (knell1, 10) ∧ 10 + 1000000 ≤ max (afterKnell none []).now 1000010 ∧ (checked (currentTwin 1 1)).ep.selfCheck = true ∧
    (checked (currentTwin 1 1)).ep.quiet = true ∧ (checked (currentTwin 1 1)).twin.st = 1 := by decide

/-! ## Tests, policies, hold and messages -/

def testWs (kind targets cores : Nat) : List Byte := bytes64 [kind, targets, cores]
def tested (kind : Nat) : State := give ready 0 3 0x90 0 (testWs kind (2 ^ 30 + 1) (2 ^ 63 + 1))
def enabled : State := { ready with img := { ready.img with fields := [(0x0110, some 0x3F)] } }
def calBs : List Byte := bytes64 [3, 2 ^ 30 + 2 ^ 24 + 2 ^ 23 + 1]

/-- DRAM stack 0, port PT, cores 0 and 63. -/
theorem test_wit_TestsReportUnits_selftest :
    lanesOk [] = true ∧ Given (tested 0) 0 0x90 [1, bits 31 0, allBits] (testWs 0 (2 ^ 30 + 1) (2 ^ 63 + 1)) ∧
    (tested 0).running = false ∧ Given (stepping (tested 0)) 0 0x90 [1, bits 31 0, allBits] (testWs 0 (2 ^ 30 + 1) (2 ^ 63 + 1)) ∧
    (stepping (tested 0)).running = true ∧ Given (tested 1) 0 0x90 [1, bits 31 0, allBits] (testWs 1 (2 ^ 30 + 1) (2 ^ 63 + 1)) ∧
    argW (testWs 1 (2 ^ 30 + 1) (2 ^ 63 + 1)) 0 = 1 ∧ bitAt (2 ^ 30 + 1) 31 = false ∧ (testWs 0 0 0).length = 24 ∧
    (∀ c < 64, (tested 1).coldCore c = false) := by unfold Given; decide

/-- The clock of core 63 has been off for 1 ms, and for a nanosecond more. -/
def cold (now : Nat) : State := { tested 1 with now := now, cores := [(63, { Core.init with gated := true })] }

theorem test_wit_TestsReportUnits_cold :
    Given (cold 1000001) 0 0x90 [1, bits 31 0, allBits] (testWs 1 (2 ^ 30 + 1) (2 ^ 63 + 1)) ∧ (cold 1000001).running = false ∧
    (2 ^ 63 + 1).testBit 63 = true ∧ (cold 1000001).coldCore 63 = true ∧ (cold 1000000).coldCore 63 = false := by unfold Given; decide

/-- Three attempts of port PX+: the third trains, degraded or full; a fourth is none of the first three. -/
theorem test_wit_TestsReportUnits_tries :
    (attemptsOf [(.pxp, .failed), (.pyp, .full), (.pxp, .laneMap), (.pxp, .full)] .pxp).take 3 = [PortTrain.failed, .laneMap] ++ .full :: [] ∧
    (attemptsOf [(.pxp, .miswired), (.pxp, .degraded true 3)] .pxp).take 3 = [PortTrain.miswired] ++ .degraded true 3 :: [] ∧
    (attemptsOf [(.pxp, .failed), (.pxp, .failed), (.pxp, .failed), (.pxp, .full)] .pxp).take 3 = [.failed, .failed, .failed] := by decide

theorem test_wit_TestsReportUnits_calibrate :
    Given (give enabled 0 3 0x91 0 calBs) 0 0x91 [3, bits 30 0] calBs ∧ calBs.length = 16 ∧ setBits 31 (argW calBs 1) = [0, 23, 24, 30] ∧
    enabled.portEnabled .pxp = true ∧ enabled.portEnabled .pt = false ∧ enabled.running = false ∧
    (stepping enabled).running = true ∧ GivenG1 (give ready 0 1 0x40 0 (natLe 4 1)) 0 0x40 (natLe 4 1) ∧
    GivenG1 (give ready 0 1 0x41 0 (natLe 4 1 ++ natLe 4 1)) 0 0x41 (natLe 4 1 ++ natLe 4 1) := by unfold Given GivenG1; decide +kernel

def polSet (key v : Nat) : State := give enabled 0 3 0xA0 0 (bytes64 [key, v])
def polGet (key : Nat) : State := give ready 0 3 0xA1 0 (bytes64 [key])
def beatAt (n : Nat) : State := { ready with beat := { ready.beat with num := n } }
def syncBs (l n : Nat) : List Byte := bytes64 [l, n]
def syncing (l : Nat) : State := give (beatAt 65536) 0 3 0xA2 0 (syncBs l 7)

/-- The greatest value of key 0x0031 and the one above it. -/
theorem test_wit_PolicyBeatAndHoldCommands_policy :
    Given (polSet 0x0031 1000) 0 0xA0 [bits 15 0, allBits] (bytes64 [0x0031, 1000]) ∧ policyKey 0x0031 = true ∧
    fieldOk 0x0031 1000 = true ∧ fieldOk 0x0031 1001 = false ∧ Given (polSet 1 (2 ^ 24 + 2 ^ 32 + 2 ^ 40)) 0 0xA0 [bits 15 0, allBits] (bytes64 [1, 2 ^ 24 + 2 ^ 32 + 2 ^ 40]) ∧
    policyKey 1 = true ∧ ready.car.member = false ∧ enabled.routingOk (2 ^ 24 + 2 ^ 32 + 2 ^ 40) = true ∧
    Given (polGet 0x0053) 0 0xA1 [bits 15 0] (bytes64 [0x0053]) ∧ policyKey 0x0053 = true ∧ Given (polGet 1) 0 0xA1 [bits 15 0] (bytes64 [1]) ∧
    (let s : State := { polGet 0x0030 with car := (member 0 2).car }
     Given s 0 0xA1 [bits 15 0] (bytes64 [0x0030]) ∧ s.car.member = true) ∧ policyKey 0x0030 = true ∧ ready.ep.st = .idle := by unfold Given; decide

/-- The oldest beat that still counts, one older, and one that has not begun. -/
theorem test_wit_PolicyBeatAndHoldCommands_beat :
    Given (syncing 1) 0 0xA2 [bits 47 0, bits 47 0] (syncBs 1 7) ∧ 1 ≤ (syncing 1).beatNo ∧ (syncing 1).beatNo < 1 + 65536 ∧
    (syncing 0).beatNo = 0 + 65536 ∧ (syncing 65537).beatNo < 65537 ∧ (syncing 1).running = false ∧ (stepping (syncing 1)).running = true ∧
    Given (stepping (syncing 1)) 0 0xA2 [bits 47 0, bits 47 0] (syncBs 1 7) := by unfold Given; decide

/-- In hold, which the host entered in READY. -/
def heldBy (cause : Nat) : State := { ready with
  sup := { ready.sup with cause := cause }
  cp := { ready.cp with phase := 5, holdFrom := some (5, 4), stableAt := some 7 } }

theorem test_wit_PolicyBeatAndHoldCommands_hold :
    Given ((give ready 0 3 0xF1 0 []).at 9) 0 0xF1 [] [] ∧ ready.cp.phase = 4 ∧ Given ((give (heldBy 4) 63 3 0xF2 0 []).at 9) 63 0xF2 [] [] ∧
    (heldBy 4).cp.phase = 5 ∧ (heldBy 4).sup.cause = 4 ∧ (heldBy 4).supplyOk = true := by unfold Given; decide

/-- A core with a control region at 0x5F0000: its ops of 64 bytes, loop descriptors of 256 and buffers of 32 (Table 2.4). -/
def ctlCore (ops descs bufs : List (List Nat)) : Core :=
  let o := 64; let d := o + 64 * ops.length; let b := d + 256 * descs.length
  let pad (n : Nat) (ws : List Nat) : List Nat := ws ++ List.replicate (n - ws.length) 0
  { Core.init with ctl := some 0x5F0000, csq := .running, store := memAt 0x5F0000 (bytes64
      (pad 8 [o * 2 ^ 32 + ops.length, d * 2 ^ 32 + descs.length, b * 2 ^ 32 + bufs.length] ++
       ops.flatMap (pad 8) ++ descs.flatMap (pad 32) ++ bufs.flatMap (pad 4))) }

/-- A step runs whose core 3 has a buffer of 16 bytes at 0x100. -/
def receiving : State := { stepping (opened 4) with ports := [(0, { PortS.init with st := .full })], cores := [(3, ctlCore [] [] [[0x100, 16]])] }
/-- A message of n bytes to that buffer, with or without a signal on counter F1 of core 3. -/
def msgTo (addr epoch : Nat) (sig : Bool) : MsgDesc := ⟨addr, 0, 3, 0, 1, sig, false, 3, 65535, 1, epoch⟩

/-- The last four bytes of a buffer and the four that pass its end by one, with the greatest count of a signal. -/
theorem test_wit_MessagesAndSignalsArrive_message :
    receiving.live = true ∧ receiving.cp.phase = 4 ∧ (receiving.port .pxp).trained = true ∧ ((0 : Nat) ≠ 4) ∧
    receiving.runsEpoch 1 = true ∧ receiving.bufferHolds 0 3 0x10C 4 = true ∧ (receiving.core 3).sem 1 false + 65535 ≤ 65535 ∧
    receiving.runsEpoch 2 = false ∧ receiving.bufferHolds 0 3 0x10D 4 = false := by decide +kernel

/-- A message of SPACE 4 to the page at the front of sequence 5's region. -/
def regionMsg (epoch : Nat) : MsgDesc := { msgTo (5 * 2 ^ 40) epoch false with space := 4 }
/-- The step runs under the halt policy and that page is in HOST. -/
def pageWanted : State := { receiving with kv := pageInHost.kv, ep := { receiving.ep with halt := true } }

/-- DRAM closed; a page in HOST that finds a frame; a re-formation copy without a SHRINK. -/
theorem test_wit_MessagesAndSignalsArrive_waits :
    (({ receiving with dram := { ready.dram with closed := true } } : State).at 9).messageWaits { msgTo 0 1 false with space := 3 } 4 = true ∧
    (receiving.at 9).messageWaits (msgTo 0x10C 1 true) 4 = false ∧ (pageWanted.at 9).messageWaits (regionMsg 1) 4 = false ∧
    (pageWanted.at 9).messagePages (regionMsg 1) 4 = [0] ∧ ((pageWanted.at 9).promoteAll [0]).2 = true ∧
    (receiving.at 9).messageWaits (regionMsg reformEpoch) 4 = false ∧ receiving.mb.jobs = [] ∧
    (receiving.at 9).messagePages (msgTo 0x10D 1 true) 4 = [] := by decide +kernel

theorem test_wit_MessagesAndSignalsArrive_control :
    (msgTo 0 1 true).sigEn = true ∧ (receiving.core (msgTo 0 1 true).target.val).sem 1 false + (msgTo 0 1 true).count ≤ 65535 ∧
    receiving.reformJob = none := by decide

/-- Member x of two with an instance of plan op 0, use 1, live while a step of epoch 1 runs. -/
def inst0 (router : Bool) : Inst := ⟨0, 1, router, 0, [], [], [], [], [], [], []⟩
def reducing (x : Nat) (i : Inst) : State := { stepping (member x 2) with
  rt := { ready.rt with insts := [i], slots := 1 } }
/-- Chunk 0 of member 1 for the root: 16 bytes with their tail. -/
def chunk1 (crc : Nat) : ChunkMsg := ⟨0, false, 1, 0, 1, 1, List.replicate 16 3, [], crc⟩
def goodCrc : Nat := crc32c (chunkHdr 1 1 0 1 16 ++ List.replicate 16 3)

theorem test_wit_ReductionChunksCombine_arrive :
    (reducing 0 (inst0 true)).live = true ∧ (reducing 0 (inst0 true)).memberRec = some (carRec 0 2) ∧
    (reducing 0 (inst0 true)).runsEpoch 1 = true ∧ 0 < planNops (carRec 0 2).plan ∧
    ((carRec 0 2).pnode 0).arrives false 1 = some 1 ∧ (reducing 0 (inst0 true)).inst 0 1 = some (inst0 true) ∧ ((carRec 0 2).pnode 0).o.early = false ∧
    tailOk (chunk1 goodCrc) = true ∧ tailOk (chunk1 (goodCrc + 1)) = false ∧ (inst0 true).nacked.contains (0, 1, false) = false ∧
    (reducing 0 (inst0 true)).runsEpoch 2 = false ∧ ((carRec 0 2).pnode 0).arrives false 5 = none ∧
    (∀ x ∈ (inst0 true).ins, x.k ≠ 0 ∨ x.pos ≠ 1) ∧ ({ inst0 true with nacked := [(0, 1, false)] } : Inst).nacked.contains (0, 1, false) = true ∧
    (reducing 0 (inst0 false)).inst 0 1 = some (inst0 false) ∧ (inst0 false).router = false := by decide +kernel

/-- The same carillon with its plan op under early use (bit 31 of its first word). -/
def earlyRec : CarRec := { carRec 0 2 with plan := (planBytes 2).set 67 0x80 }

theorem test_wit_ReductionChunksCombine_early :
    let s := { reducing 0 (inst0 true) with car := { (reducing 0 (inst0 true)).car with rec? := some earlyRec } }
    s.memberRec = some earlyRec ∧ s.runsEpoch 1 = true ∧ 0 < planNops earlyRec.plan ∧ (earlyRec.pnode 0).arrives false 1 = some 1 ∧
    s.inst 0 1 = some (inst0 true) ∧ (earlyRec.pnode 0).o.early = true := by decide +kernel

/-- The leaf's instance with its own input there, and its output once it is sent. -/
def leafIn : Inst := { inst0 true with injected := [] , ins := [⟨0, 0, List.replicate 16 3, []⟩] }

theorem test_wit_ReductionChunksCombine_combine :
    (reducing 1 leafIn).inst 0 1 = some leafIn ∧ leafIn.combined.contains 0 = false ∧
    (leafIn.inputsOf ((carRec 1 2).pnode 0) 0).isSome = true ∧ ((carRec 1 2).pnode 0).root = false ∧ ((carRec 1 2).pnode 0).o.early = false ∧
    (reducing 1 leafIn).memberRec = some (carRec 1 2) ∧ (reducing 1 leafIn).running = true := by decide +kernel

/-- The same with the instance spilled, the pattern naming core 3 and its buffer 0. -/
def spilling : State := { reducing 1 { leafIn with router := false } with
  pat := ⟨.started, patImage [(5, 255, 0, bytes64 [2 ^ 63 + 3 * 2 ^ 16])], List.replicate 32 0⟩ }
/-- The leaf's chunk is sent and kept, and already sent again or not. -/
def kept (resent : Bool) : Inst := { leafIn with combined := [0], outs := [⟨0, false, 0, resent, List.replicate 16 3, []⟩] }
def ref0 : ChunkRef := ⟨0, 1, 0, false, 0, 1⟩

theorem test_wit_ReductionChunksCombine_spill :
    spilling.memberRec = some (carRec 1 2) ∧ spilling.inst 0 1 = some { leafIn with router := false } ∧ spilling.running = true ∧
    spillDecl spilling.pat.image = some (3, 0) ∧ spilling.spillCoreFree 3 ((carRec 1 2).pnode 0).o.kind = true ∧
    spilling.dram.closed = false ∧ spilling.rt.ready.head? ≠ some (0, 1, 0) ∧
    ({ spilling with rt := { spilling.rt with ready := [(0, 1, 0)] } } : State).rt.ready.head? = some (0, 1, 0) ∧
    ({ leafIn with router := false } : Inst).combined.contains 0 = false ∧ ((carRec 1 2).pnode 0).root = false := by decide +kernel

theorem test_wit_ReductionChunksCombine_replies :
    (reducing 1 (kept false)).live = true ∧ (reducing 1 (kept false)).runsEpoch ref0.epoch = true ∧
    (reducing 1 (kept false)).inst ref0.pop ref0.use = some (kept false) ∧ (reducing 1 (kept true)).inst 0 1 = some (kept true) ∧
    (kept false).outs.find? (fun o => o.k == 0 && o.down == false && o.dest == 0) = some ⟨0, false, 0, false, List.replicate 16 3, []⟩ ∧
    (kept true).outs.find? (fun o => o.k == 0 && o.down == false && o.dest == 0) = some ⟨0, false, 0, true, List.replicate 16 3, []⟩ := by decide +kernel

/-! ## Links -/

/-- Port PX+ trained, with two flits sent and not acknowledged: numbers 2 and 3. -/
def linkPort (st : PortSt) : PortS := { PortS.init with
  st := st, rxSeq := 4095, txSeq := 4, ackAt := 10,
  retry := [(2 ^ 61 + 2 * 2 ^ 43, []), (2 ^ 61 + 3 * 2 ^ 43, [])], lockLoss := [(2, 40)], resends := 6, resendSeq := 2 }
def linkState (p : PortS) : State := { ready with ports := [(0, p)], beat := { ready.beat with num := 1064 } }
/-- An empty flit: header, payload of zeros, CRC and parity. -/
def rawFlit (h : Nat) (tail : List Byte) : List Byte := natLe 8 h ++ List.replicate 256 0 ++ tail
/-- DATA with SEQ 0, NAK with SEQ 2, both with ACK 1; IDLE with beat 1064 (Table 11.3). -/
def dataRaw : List Byte := rawFlit (2 ^ 61 + 2 ^ 31)
  [220, 89, 191, 66, 37, 51, 189, 124, 214, 146, 27, 28, 40, 97, 141, 134, 38, 74, 114, 130, 98, 185, 4, 77]
def nakRaw : List Byte := rawFlit (2 * 2 ^ 61 + 2 * 2 ^ 43 + 2 ^ 31)
  [98, 215, 27, 209, 189, 225, 183, 13, 42, 133, 61, 205, 147, 203, 197, 179, 157, 234, 95, 81, 248, 241, 169, 225]
def idleRaw : List Byte := rawFlit (1064 * 2 ^ 15)
  [230, 12, 91, 171, 169, 223, 213, 170, 103, 87, 154, 209, 149, 51, 13, 159, 204, 253, 194, 9, 95, 11, 184, 92]

set_option maxRecDepth 20000 in
theorem test_wit_LinkRowsKeepFlits_receive :
    ((linkState (linkPort .full)).port .pxp).trained = true ∧ ((linkState (linkPort .full)).port .pxp).train = none ∧
    flitDecode (List.replicate 288 0) = none ∧ ((linkState { linkPort .full with resync := true }).port .pxp).resync = true ∧
    ((linkState (linkPort .full)).port .pxp).resync = false ∧ (linkState (linkPort .full)).rt.owed = [] ∧
    (linkState (linkPort .full)).rt.insts = [] := by decide +kernel

set_option maxRecDepth 20000 in
/-- The number after 4095 is 0. -/
theorem test_wit_LinkRowsKeepFlits_sequence :
    flitDecode dataRaw = some (dataRaw, []) ∧ flitDecode nakRaw = some (nakRaw, []) ∧
    hdrType (leNat (dataRaw.take 8)) = 1 ∧ hdrSeq (leNat (dataRaw.take 8)) = ((linkPort .full).rxSeq + 1) % 4096 ∧
    hdrSeq (leNat (nakRaw.take 8)) ≠ ((linkPort .full).rxSeq + 1) % 4096 ∧ hdrType (leNat (nakRaw.take 8)) = 2 := by decide +kernel

/-- A second loss of lock 1,024 beats after the first. -/
theorem test_wit_LinkRowsKeepFlits_retrain :
    (linkPort .full).retry ≠ [] ∧ 20000 ≤ max (linkState (linkPort .full)).now 20010 - (linkPort .full).ackAt ∧ (linkPort .full).serves 7 = true ∧
    (∀ e ∈ (linkPort .full).lockLoss, e.1 ≠ 7) ∧ (∃ e ∈ (linkPort .full).lockLoss, e.1 = 2 ∧ 1064 - e.2 ≤ 1024) ∧
    ({ linkPort .full with train := some 5 } : PortS).train ≠ none ∧ (linkPort (.degraded true)).serves 3 = false ∧
    (linkPort (.degraded true)).serves 4 = true := by decide

set_option maxRecDepth 20000 in
theorem test_wit_IdleFlitsCarryBeat :
    flitDecode idleRaw = some (idleRaw, []) ∧
    hdrType (leNat (idleRaw.take 8)) = 0 ∧ fld (1064 * 2 ^ 15) 30 15 = (linkState (linkPort .full)).beatNo % 65536 := by decide +kernel

/-! ## Beat -/

/-- A beat that began at 1,000,000; the next is due a period later. -/
def onBeat (lost : Bool) (misses run : Nat) : State := { ready with now := 1000000, beat := { ready.beat with
    num := 7, start := 1000000, lost := lost, misses := misses, run := run, relock := true, lastEdge := 1000000, first := false } }
def temps0 : List Nat := List.replicate 24 4500

/-- Edges 200 ns from their time and one further; a second miss. -/
theorem test_wit_BeatRowsFollowEdges_locked :
    tempsOk temps0 = true ∧ (onBeat false 1 0).live = true ∧ (onBeat false 1 0).beat.lost = false ∧ (onBeat false 1 0).period = 100000 ∧
    max (onBeat false 1 0).now 1100200 = 1000000 + 100000 + 200 := by decide

theorem test_wit_BeatRowsFollowEdges_lost :
    (onBeat true 2 15).beat.lost = true ∧ (onBeat true 2 15).beat.relock = true ∧ (onBeat true 2 15).beat.run = 15 ∧
    (onBeat true 2 14).beat.run ≠ 15 ∧ (onBeat true 2 15).period ≤ (max 1000000 1100000 - 1000000) + 200 := by decide

/-- Inside a beat that began at 0, with the windows running. -/
def inBeat (window : Nat) (deferred : Bool) : State := { ready with beat := { ready.beat with
    num := 9, lost := false, first := false, window := window, deferRef := deferred } }

theorem test_wit_WindowsAndClockGates_refresh :
    ((inBeat 0 false).at 2399).windowsRun = true ∧ (inBeat 0 false).refreshNs = 2400 ∧ max (inBeat 0 false).now 2399 < 0 + 2400 ∧
    ((inBeat 2 true).at 40000).windowsRun = true ∧ (inBeat 2 true).beat.lastLong + 40000 ≤ max (inBeat 2 true).now 40000 := by decide

/-- Beat 1024, with a test that waits for its long window. -/
def longBeat : State := { ready with now := 900, beat := { ready.beat with
    num := 1024, start := 900, lost := false, first := false, lastLong := 7, tasks := [⟨0x90, 0, 1024, 1⟩] } }

theorem test_wit_WindowsAndClockGates_long :
    (longBeat.at 40899).longDue.1 = true ∧ (longBeat.at 40900).longDue.1 = false ∧ lanesOk [(767, 3)] = true := by decide

theorem test_wit_WindowsAndClockGates_end :
    (inBeat 1 false).beat.start + 2400 ≤ ((inBeat 1 false).at 2400).now ∧ (inBeat 2 false).beat.lastLong + max 40000 2400 ≤ ((inBeat 2 false).at 40000).now ∧
    ((inBeat 2 false).at 39999).now < 0 + 40000 ∧ (inBeat 3 false).beat.lastLong + 40000 + 2400 ≤ ((inBeat 3 false).at 42400).now := by decide

theorem test_wit_WindowsAndClockGates_clocks :
    (ready.at 100000).testsOf 63 = [] ∧ ((withPat .started).at 9).testsOf 63 = [] ∧ (withPat .started).participants = [] ∧
    (({ cold 1000001 with mb := { (cold 1000001).mb with jobs := [⟨0, .selftest, [(64 + 63, none)], none, [], []⟩] } } : State).at 9).testsOf 63 ≠ [] ∧
    ((cold 1000001).core 63).gated = true ∧ max (cold 1000001).now 0 - (1000001 : Nat) = ceilDiv ((cold 1000001).selfIdx % 16 * (cold 1000001).period) 16 ∧
    ready.live = true ∧ ready.running = false ∧ (ready.core 63).gated = false ∧ (ready.core 63).idleAt + 100000 ≤ max ready.now 100000 ∧
    (let s := stepping (withPat .started)
     let k : Core := { Core.init with ctl := some 0x5F0000, gated := true }
     let s := { s with cores := [(3, k)] }
     s.running = true ∧ 3 ∈ s.participants ∧ (s.core 3).gated = true ∧ max s.now 0 - s.beat.start = ceilDiv (s.selfIdx % 16 * s.period) 16) := by decide

/-! ## DRAM -/

/-- The burst at 0 with symbol errors. -/
def spotted (errs : List (Nat × Nat)) : State := { ready with dram := { ready.dram with errs := [(0, errs)] } }

theorem test_wit_DramRowsCorrectAndRepair_read :
    dramOk (dramBytes - 1) 1 = true ∧ dramOk dramBytes 1 = false ∧ errsOk [(143, 255)] = true ∧ ready.dramOpen = true ∧
    (ready.addErrs 0 []).dramOut 0 = .clean ∧ (ready.addErrs 0 [(143, 255)]).dramOut 0 = .ce 143 255 ∧
    (ready.addErrs 0 []).erased 0 = none ∧ NatSet.has ready.dram.scrubDue 0 = false ∧ NatSet.has ready.dram.writeback 0 = false ∧
    (let s := { ready with dram := { ready.dram with scrubDue := [0] } }
     NatSet.has s.dram.scrubDue 0 = true ∧ (s.addErrs 0 [(143, 255)]).dramOut 0 = .ce 143 255 ∧ (s.addErrs 0 [(0, 1), (143, 1)]).dramOut 0 = .ue) ∧
    (let s := { ready with dram := { ready.dram with degraded := [((dramLoc 0).chanKey, 1)] } }
     (s.addErrs 0 []).dramOut 0 = .clean ∧ (s.addErrs 0 []).erased 0 ≠ none) ∧
    (ready.addErrs 0 [(0, 1), (143, 1)]).dramOut 0 = .ue ∧ ({ ready with dram := { ready.dram with poison := [0] } } : State).dramOut 0 = .poison := by decide +kernel

/-- The last row of the last bank is being copied, and 15 of its bank's spares are used. -/
def lastRow : DramLoc := ⟨23, 31, 31, 4095⟩
def sparing : State := { ready with dram := { ready.dram with copying := [lastRow.rowKey], spareUsed := [(lastRow.bankKey, 15)] } }
/-- A page in a retired frame, pinned or not, with the pool as given. -/
def retiredPage (pool : PatState) (pin : Nat) : State := { withPat pool with
  kv := { ready.kv with map := [(mapKey 5 0, 1)], recs := [(0, some ⟨0x100, 17, 2, false, false, pin, 1, 0, 0, false, false⟩)] },
  img := { ready.img with retired := [17] } }

theorem test_wit_DramRowsCorrectAndRepair_repair :
    rowOk 23 31 31 4095 = true ∧ sparing.dramOpen = true ∧ NatSet.has sparing.dram.copying lastRow.rowKey = true ∧
    Table.get 0 sparing.dram.spareUsed lastRow.bankKey < 16 ∧ sparing.spareMapFull = false ∧ recOk 0 = true ∧
    (retiredPage .loaded 1).page 0 = some ⟨0x100, 17, 2, false, false, 1, 1, 0, 0, false, false⟩ ∧ (retiredPage .loaded 1).dramOpen = true ∧
    (retiredPage .loaded 1).running = false ∧ (retiredPage .loaded 1).frameRetired 17 = true ∧ (retiredPage .loaded 1).freeFrame = some 16 ∧
    (retiredPage .none 1).freeFrame = none := by decide

/-- The page of a retired frame with no free frame and no pin: clean, dirty, and dirty with a home that host memory refuses. -/
def leaving (dirty : Bool) (home : Nat) : State := { retiredPage .none 0 with
  kv := { (retiredPage .none 0).kv with recs := [(0, some ⟨home, 17, 2, dirty, false, 0, 1, 0, 0, false, false⟩)] } }

theorem test_wit_DramRowsCorrectAndRepair_retired :
    (leaving true 0x100).page 0 = some ⟨0x100, 17, 2, true, false, 0, 1, 0, 0, false, false⟩ ∧ (leaving true 0x100).freeFrame = none ∧
    (leaving true 0x100).frameRetired 17 = true ∧ (leaving true 0x100).running = false ∧
    ((leaving true 0x100).copyOut 17 0x100).isSome = true ∧
    ({ leaving true 0x100 with host := { ready.host with bad := [0x1000] } } : State).copyOut 17 0x100 = none := by decide +kernel

/-- The last burst of DRAM awaits a rewrite; or the first of frame 17, whose page has a home. -/
def rewriting (b : Nat) (s : State) : State := { s with dram := { s.dram with rewrite := [b] } }
def topBurst : Nat := dramBytes / 128 - 1
def homedBurst : State := rewriting (17 * (pageBytes / 128)) (retiredPage .loaded 0)

theorem test_wit_DramRowsCorrectAndRepair_rewrite :
    dramOk (topBurst * 128) 1 = true ∧ NatSet.has (rewriting topBurst ready).dram.rewrite topBurst = true ∧
    (rewriting topBurst (withPt (currentTwin 0 1))).canRefetch = true ∧ (rewriting topBurst ready).canRefetch = false ∧
    (rewriting topBurst ready).burstHome topBurst = none ∧ homedBurst.burstHome (17 * (pageBytes / 128)) = some 0x100000 ∧
    homedBurst.canRefetch = false ∧ homedBurst.running = false ∧ homedBurst.dram.closed = false ∧ (homedBurst.hostRead 0x100000 128).map List.length = some 128 := by decide +kernel

/-- Core 3 runs a COPY of two rows of four BF16 elements from DRAM 0 to its store at 0x100; one row is a tile; DRAIN is 1. -/
def copyWords : List Nat := [6 + 16 + 2 ^ 12 + 2 ^ 22 + 0xFF * 2 ^ 56, 2 ^ 20 + 0x3FF * 2 ^ 10 + 0x3FF * 2 ^ 30, 0, 2 ^ 23, 2 ^ 32, 0, 0, 7]
def copyDesc : List Nat := [0o543210 * (2 ^ 18 + 1), 8 , 8, 17, 0, 0, 0, 0] ++
  [4 + 4 * 2 ^ 32, 2 * 4 + 4 * 16, 0, 0, 2 + 2 * 2 ^ 32, 1 * 4 + 16, 8, 8] ++ (List.replicate 4 [1 + 2 ^ 32, 16, 0, 0]).flatten
def copyRun : Run := ⟨⟨0, copyWords, []⟩, 1, 0, true, [4, 2, 1, 1, 1, 1], [0, 0, 0, 0], 0, false, 0, [], [], none, [], false, false, 0, 0,
  none, none, [], 0, [], false, 0⟩
def copyCore (queues : Table (List QOp)) (run : Option Run) : Core :=
  { ctlCore [copyWords] [copyDesc] [[0, 64 + 3 * 2 ^ 48], [0x100, 64]] with queues := queues, engs := Table.set none [] 6 run }
def copying (queues : Table (List QOp)) (run : Option Run) : State := { stepping (opened 4) with cores := [(3, copyCore queues run)] }

theorem test_wit_DramRowsCorrectAndRepair_grant :
    arbiterOk (.channel 23 31) = true ∧ arbiterOk (.channel 0 0) = true ∧ (copying [] (some copyRun)).dram.closed = false ∧
    (copying [] (some copyRun)).dram.trained = true ∧ (copying [] (some copyRun)).dram.selfRef = false ∧
    ((copying [] (some copyRun)).at 9).background (.channel 0 0) = [] ∧ ((copying [] (some copyRun)).at 9).foreground (.channel 0 0) = [(0, 3, 7)] := by decide +kernel

/-! ## Supplies and power -/

def onBackup : State := { ready with sup := { ready.sup with
  onBackup := [false, false, true], backupFrom := [none, none, some 5] } }

/-- Hold exit after 10 ms of stable supplies, backup for 1 ms. -/
theorem test_wit_SupplyRowsEnterAndLeaveHold_rows :
    ready.sup.onBackup.getD (Pair.idx .vpp) false = false ∧ onBackup.sup.onBackup.getD (Pair.idx .vpp) false = true ∧
    onBackup.sup.backupFrom.getD (Pair.idx .vpp) none = some 5 ∧ 5 + 1000000 ≤ max onBackup.now 1000005 ∧ Rail.vucie ∉ ready.sup.railsOut ∧
    (heldBy 1).live = true ∧ (heldBy 1).cp.phase = 5 ∧ (heldBy 1).sup.cause ≠ 4 ∧ (heldBy 1).cp.exiting = none ∧
    ((heldBy 1).at 10000007).supplyStable = true ∧ ready.live = true ∧ ready.cp.phase ≠ 5 := by decide

def exiting : State := { heldBy 1 with cp := { (heldBy 1).cp with exiting := some 8 } }

theorem test_wit_SupplyRowsEnterAndLeaveHold_exit :
    ucieOk 4 32 = true ∧ ucieOk 0 0 = true ∧ ucieOk 5 32 = false ∧ exiting.live = true ∧ exiting.cp.phase = 5 ∧ exiting.cp.exiting = some 8 ∧
    8 + 22000000 ≤ max exiting.now 22000008 ∧ exiting.cp.holdFrom = some (5, 4) := by decide

/-- A sag of VPP's backup rail since 100, in beat 7; `n` sags of the beat are logged. -/
def sagging (n : Nat) : State := { ready with sup := { ready.sup with sags := [(.backup .vpp, 100, 7, 3)] }, ev := { ready.ev with sags := n } }
def drawing (last : List Nat) : State := { ready with pwr := { ready.pwr with capDuty := 65, last := last, vmin := 700 } }

/-- The 64th sag of a beat and the one after it. -/
theorem test_wit_PowerRowsShapeLoad_sags :
    (∀ g ∈ (sagging 0).sup.sags, g.1 ≠ AnyRail.main .vpp) ∧
    (sagging 63).sup.sags.find? (fun g => g.1 == AnyRail.backup .vpp) = some (.backup .vpp, 100, 7, 3) ∧ (sagging 63).live = true ∧
    (sagging 63).ev.sags < 64 ∧ 64 ≤ (sagging 64).ev.sags := by decide

theorem test_wit_PowerRowsShapeLoad_power :
    (drawing []).live = true ∧ (drawing []).cp.phase ≠ 5 ∧ 674 + 25 < (drawing []).pwr.vmin ∧ (drawing []).policy 0x0012 * 1000 < 450001 ∧
    450000 ≤ (drawing []).policy 0x0012 * 1000 ∧ 0 ≤ (drawing []).policy 0x0013 * 1000 ∧
    ((List.replicate 11 1000 : List Nat).getD 10 0) + (drawing []).policy 0x0010 * 1000 < 1000000 ∧
    (drawing []).field 0x0140 * 100 < 10001 ∧ 9999 < (drawing []).field 0x0140 * 100 := by decide

/-! ## Start-up -/

def inPhase (p : Nat) : State := { ready with cp := { ready.cp with phase := p, phaseAt := 10 }, dram := Dram.init }

/-- VMIN at both ends of its range, the last channel, the first nanosecond beyond a limit. Whether bank F verifies is opaque (log 10), so the two outcomes of IMAGE have no concrete witness; one of them holds. -/
theorem test_wit_StartUpPhasesFollow :
    (inPhase 0).live = true ∧ (inPhase 0).cp.phase = 0 ∧ romOk ⟨true, 0, 620⟩ = true ∧ romOk ⟨false, 2, 800⟩ = true ∧ romOk ⟨true, 0, 621⟩ = false ∧
    (inPhase 1).cp.phase = 1 ∧ (inPhase 2).cp.phase = 2 ∧ ([(23, 31)] : List (Nat × Nat)).all (fun f => stackOk f.1 && decide (f.2 < 32)) = true ∧
    (inPhase 3).cp.phase = 3 ∧ ucieOk 4 32 = true ∧ (inPhase 3).portEnabled .pxp = true ∧
    (attemptsOf [(.pxp, .failed), (.pxp, .full)] .pxp).take 3 = [PortTrain.failed] ++ .full :: [] ∧
    (attemptsOf [(.pxp, .degraded false 7)] .pxp).take 3 = [] ++ PortTrain.degraded false 7 :: [] ∧
    (attemptsOf [(.pyp, .full)] .pxp).take 3 = [] ∧
    phaseLimitNs 2 < ((inPhase 2).at 450000011).now - (inPhase 2).cp.phaseAt := by decide

/-! ## Sequencer -/

/-- A control op (Table 2.7) with its immediates; OPID 5. -/
def ctlOp (code i0 i1 i2 : Nat) : List Nat := [code * 16, 0, 0, 0, i0 * 2 ^ 32, i1 + i2 * 2 ^ 32, 0, 5]
def ctlList : List (List Nat) :=
  [ctlOp 0 0 0 0, ctlOp 1 0 0 0, ctlOp 2 9 0 0, ctlOp 3 31 77 0, ctlOp 4 31 0x5F0000 0, ctlOp 5 63 65536 15, copyWords, ctlOp 5 63 65537 15]
/-- Core 3 about to dispatch op n of that list. -/
def seqCore (n : Nat) : Core := { ctlCore ctlList [copyDesc] [[0, 64 + 3 * 2 ^ 48], [0x100, 64]] with pc := n }
def seqState (n : Nat) : State := { stepping (opened 4) with cores := [(3, seqCore n)] }
/-- The CSQ's read of the op meets no error. -/
def readsOp (s : State) : Bool :=
  let k := s.core 3
  (s.csqRead 3 (opFclass (nextOp k)) (opId (nextOp k)) ((List.range 64).map (fun i => (ctlTable k 0).1 + 64 * k.pc + i))).2.1 == false

/-- One op of each kind, and a count at and above the greatest. -/
theorem test_wit_SequencerTakesOps_dispatch :
    (∀ n < 8, (seqState n).csqReady 3 = true ∧ readsOp (seqState n) = true ∧ r61 (seqCore n) (nextOp (seqCore n)) = none) ∧
    (seqState 8).csqReady 3 = false ∧ dispatches (seqCore 6) (nextOp (seqCore 6)) = true ∧ (∀ n < 6, isCtl n (nextOp (seqCore n)) = true) ∧
    (armArgs (seqCore 5) (nextOp (seqCore 5))).1 = 65536 ∧ (armArgs (seqCore 7) (nextOp (seqCore 7))).1 = 65537 ∧
    Table.get none (seqState 5).fab.ctrs 63 = none := by decide +kernel

def waitingCore (st : Csq) (pc : Nat) : State := { stepping (opened 4) with cores := [(3, { seqCore pc with csq := st })] }
/-- The counter of WCTR_ARM already armed. -/
def armed (n : Nat) : State := { seqState 5 with fab := { (seqState 5).fab with ctrs := [(63, some ⟨n, 15, 0, [], [], [], []⟩)] } }
/-- A COPY that waits for FULL counter 1 of core 3 to hold 2 (per op), at the head of its queue since 0. -/
def waitCopy : List Nat := copyWords.set 2 (2 * 2 ^ 8 + 2 ^ 7 + 1)
def queuedCopy (w : List Nat) : State := copying [(6, [⟨0, w, []⟩])] none

theorem test_wit_SequencerTakesOps_waits :
    (waitingCore .bndWait 4).drainedIn 3 .bndWait = true ∧ (waitingCore .gongWait 2).drainedIn 3 .gongWait = true ∧
    (∀ d < 64, (waitingCore .gongWait 2).gongOf d = none) ∧ (waitingCore .atGong 2).participants = [3] ∧
    ((waitingCore .atGong 2).core 3).csq = .atGong ∧ (waitingCore .ended 2).drainedIn 3 .ended = true ∧
    ((waitingCore .ended 2).core 3).done = false ∧ ((waitingCore .bndWait 4).csqRead 3 0 5 ((List.range 4).map (0x5F0000 + ·))).2 = (false, false) ∧
    Table.get none (armed 65536).fab.ctrs 63 = some ⟨65536, 15, 0, [], [], [], []⟩ ∧ Table.get none (armed 1).fab.ctrs 63 = some ⟨1, 15, 0, [], [], [], []⟩ ∧
    (queuedCopy waitCopy).coreLive 3 = true ∧ (queuedCopy waitCopy).car.waitStop = none ∧
    ((queuedCopy waitCopy).at 50000001).waitingSince 3 6 = some (0, waitCopy) ∧
    patWaitLimit (queuedCopy waitCopy).pat.image < max (queuedCopy waitCopy).now 50000001 - 0 - pausedNs (queuedCopy waitCopy).car.pauses 0 50000001 := by decide +kernel

/-! ## Engines -/

/-- The engine rows at core 3, each with its engine and one opcode of its own. -/
def engineRows : List (Instr × Nat × Nat) :=
  [(.mxuOp 3 9 [], 1, 0), (.attn 3 9 [], 1, 0x20), (.vuOp 3 9 [], 2, 5), (.exp 3 9 [], 3, 1), (.exp2 3 9 [], 3, 2), (.log 3 9 [], 3, 3),
   (.log2 3 9 [], 3, 4), (.rcp 3 9 [], 3, 5), (.rsqrt 3 9 [], 3, 6), (.rud 3 9 [], 3, 0x10), (.rsuOp 3 9 [], 4, 7), (.refmax 3 9 [], 5, 1),
   (.merge 3 9 [], 5, 2), (.lwadd 3 9 [], 5, 3), (.lwround 3 9 [], 5, 4), (.rollscale 3 9 [], 5, 5), (.copy 3 9 [], 6, 1), (.mcast 3 9 [], 6, 2),
   (.fetch 3 9 [], 6, 3)]
/-- An op with just its engine and opcode, waiting or not for FULL counter 1 to hold 2. -/
def bareOp (e o : Nat) (wait : Bool) : List Nat := [e + 16 * o + 0xFF * 2 ^ 56, 0, if wait then 2 * 2 ^ 8 + 2 ^ 7 + 1 else 0, 0, 0, 0, 0, 0]
def rowQueued (e o : Nat) (wait : Bool) : State :=
  (({ stepping (opened 4) with cores := [(3, { ctlCore [] [] [] with queues := [(e, [⟨0, bareOp e o wait, []⟩])] })] } : State).at 9).upset 3 []
def bareRun (e o : Nat) : Run := { copyRun with op := ⟨0, bareOp e o false, []⟩ }
def rowRuns (e o : Nat) : State :=
  (({ stepping (opened 4) with cores := [(3, { ctlCore [] [] [] with engs := [(e, some (bareRun e o))] })] } : State).at 9).upset 3 []

theorem test_wit_EngineRowsRunTheirOps_queued :
    ∀ x ∈ engineRows, (rowQueued x.2.1 x.2.2 false).coreLive 3 = true ∧ (rowQueued x.2.1 x.2.2 false).eng 3 x.2.1 = none ∧
    (∃ q qs, Table.get [] ((rowQueued x.2.1 x.2.2 false).core 3).queues x.2.1 = q :: qs ∧ opCode q.w = x.2.2 ∧
      ((rowQueued x.2.1 x.2.2 false).core 3).waitsOk (opStartWaits q.w) = true) ∧
    ((rowQueued x.2.1 x.2.2 true).core 3).waitsOk (opStartWaits (bareOp x.2.1 x.2.2 true)) = false := by
  intro x h
  simp only [engineRows, List.mem_cons, List.not_mem_nil, or_false] at h
  rcases h with h | h | h | h | h | h | h | h | h | h | h | h | h | h | h | h | h | h | h <;> subst h <;>
    exact ⟨by decide, by decide, ⟨_, _, rfl, by decide, by decide⟩, by decide⟩

theorem test_wit_EngineRowsRunTheirOps_running :
    ∀ x ∈ engineRows, (rowRuns x.2.1 x.2.2).coreLive 3 = true ∧
    (rowRuns x.2.1 x.2.2).eng 3 x.2.1 = some (bareRun x.2.1 x.2.2) ∧ opCode (bareRun x.2.1 x.2.2).op.w = x.2.2 ∧
    (bareRun x.2.1 x.2.2).tileOpen = false := by decide

theorem test_wit_EngineRowsRunTheirOps_start :
    Table.get [] ((queuedCopy waitCopy).core 3).queues 6 = [⟨0, waitCopy, []⟩] ∧
    (∀ a ∈ controlAddrs ((queuedCopy waitCopy).core 3) waitCopy ++ memBoundAddrs ((queuedCopy waitCopy).core 3) ⟨0, waitCopy, []⟩,
      popcount (Table.get 0 ((queuedCopy waitCopy).core 3).flips (a / 8)) = 0 ∧ NatSet.has ((queuedCopy waitCopy).core 3).poison (a / 64) = false) ∧
    listCount ((queuedCopy waitCopy).core 3) ⟨0, waitCopy, []⟩ = (1, 1) ∧
    (∀ l < 6, (startBounds ((queuedCopy waitCopy).core 3) ⟨0, waitCopy, []⟩).getD l 0 ≤
      ((descOf (descWords ((queuedCopy waitCopy).core 3) (opLoop waitCopy))).level l).max) := by decide +kernel

/-- The COPY waits per tile for FULL counter 1 to hold 2, which holds n. -/
def tileWords : List Nat := waitCopy.set 4 (2 ^ 32 + 2 ^ 16)
def tileRun : Run := { copyRun with op := ⟨0, tileWords, []⟩ }
def tiling (n : Nat) (r : Run) : State := (copying [] (some r)).updCore 3 (fun k => { k with semF := [(1, n)] })

/-- A tile wait one short and just satisfied, and the end of the nest. -/
theorem test_wit_RunsMoveByRule_moves :
    (tiling 1 tileRun).eng 3 6 = some tileRun ∧ (tiling 1 tileRun).running = true ∧ tileRun.halt = none ∧ tileRun.ready = false ∧
    tileRun.begun = true ∧ opWctrEn tileRun.op.w = false ∧ tileRun.drawn = none ∧ tileRun.pos < runTotal ((tiling 1 tileRun).core 3) tileRun ∧
    tileRun.tileOpen = false ∧ kZero ((tiling 1 tileRun).core 3) tileRun = false ∧
    ((tiling 1 tileRun).core 3).waitsOk (opTileWaits tileRun.op.w) = false ∧ ((tiling 2 tileRun).core 3).waitsOk (opTileWaits tileRun.op.w) = true ∧
    tileRun.held = [] ∧ runTotal ((tiling 1 tileRun).core 3) tileRun ≤ { tileRun with pos := 2 }.pos ∧ { tileRun with pos := 2 }.entries ≤ { tileRun with pos := 2 }.entry + 1 := by decide +kernel

/-- A cell of an op of its own engine in an open tile, and the end of a tile: reads without errors, no page to wait for. -/
theorem test_wit_RunsMoveByRule_cells :
    let r := { copyRun with tileOpen := true }
    (copying [] (some r)).eng 3 6 = some r ∧ r.begun = true ∧ r.halt = none ∧ r.ready = false ∧ opWctrEn r.op.w = false ∧
    r.pos < runTotal ((copying [] (some r)).core 3) r ∧ ((copying [] (some r)).runCell 3 6 r).2 = true ∧
    (((copying [] (some r)).runCell 3 6 r).1.eng 3 6).isSome = true ∧
    opReduces r.op.w = false ∧ r.poisonTile = false ∧ ((copying [] (some r)).core 3).flips = [] ∧ ((copying [] (some r)).core 3).poison = [] ∧
    r.drawn = none ∧ kZero ((copying [] (some r)).core 3) r = false ∧ (copying [] (some r)).outWaits 3 r.held = false := by decide +kernel

/-- A COPY that draws its tiles from work counter 63. -/
def drawWords : List Nat := copyWords.set 0 (6 + 16 + 2 ^ 12 + 2 ^ 22 + 0xFF * 2 ^ 56 + 2 ^ 43 + 63 * 2 ^ 37)
def drawRun : Run := { copyRun with op := ⟨0, drawWords, []⟩ }
def heldRun : Run := { drawRun with drawn := some (1, false), ready := true }
def drawing63 (x : Wctr) (r : Run) : State := { copying [] (some r) with fab := { ready.fab with ctrs := [(63, some x)] } }
def ctr63 (count next factor : Nat) (commits : List (Nat × Nat)) : Wctr := ⟨count, factor, next, [(1, 3, 5)], [], [], commits⟩
def eight : List (Nat × Nat) := (List.range 8).map (fun i => (i + 2, 10))

theorem test_wit_RunsMoveByRule_draw :
    (((drawing63 (ctr63 2 1 0 []) drawRun).at 9).upset 3 []).coreLive 3 = true ∧
    (((drawing63 (ctr63 2 1 0 []) drawRun).at 9).upset 3 []).eng 3 6 = some drawRun ∧ opWctrEn drawRun.op.w = true ∧ opWctr drawRun.op.w = 63 ∧
    (((drawing63 (ctr63 2 1 0 []) drawRun).at 9).upset 3 []).ctr 63 = some (ctr63 2 1 0 []) ∧ (ctr63 2 1 0 []).next < (ctr63 2 1 0 []).count ∧
    (ctr63 2 2 0 []).count ≤ (ctr63 2 2 0 []).next ∧ (ctr63 2 2 0 []).factor = 0 ∧ (ctr63 2 2 3 []).draw = .wait ∧
    (ctr63 2 1 0 []).draw = .index 1 false ∧ (ctr63 2 2 0 []).draw = .done ∧ (ctr63 2 2 3 [(0, 8), (1, 9)]).draw = .done ∧
    ({ ctr63 2 2 3 [(0, 8)] with marks := [1] } : Wctr).draw = .index 1 true ∧ drawRun.ready = false ∧ drawRun.halt = none ∧
    drawRun.drawn = none ∧ heldRun.drawn = some (1, false) ∧ heldRun.ready = true ∧ (∃ y ∈ (ctr63 2 2 3 [(1, 8)]).commits, y.1 = 1) ∧
    (∀ y ∈ (ctr63 2 2 3 [(0, 8)]).commits, y.1 ≠ 1) ∧
    (((drawing63 (ctr63 2 2 3 [(0, 8)]) heldRun).at 9).upset 3 []).outWaits 3 heldRun.held = false := by decide +kernel

/-- Out for just three times the median. -/
theorem test_wit_RunsMoveByRule_rescue :
    (drawing63 (ctr63 10 10 3 eight) heldRun).ctr 63 = some (ctr63 10 10 3 eight) ∧
    (ctr63 10 10 3 eight).draws.find? (fun d => d.1 == 1) = some (1, 3, 5) ∧ (drawing63 (ctr63 10 10 3 eight) heldRun).ctrOp 3 63 = some drawWords ∧
    (drawing63 (ctr63 10 10 3 eight) heldRun).running = true ∧ 8 ≤ (ctr63 10 10 3 eight).commits.length ∧
    (∀ y ∈ (ctr63 10 10 3 eight).commits, y.1 ≠ 1) ∧ 1 ∉ (ctr63 10 10 3 eight).marks ∧
    noRescue ((({ copying [] (some heldRun) with cores := [(3, { ctlCore [] [copyDesc] [[0, 64], [0, 64 + 3 * 2 ^ 48]] with engs := [(6, some heldRun)] })] } : State)).core 3) drawWords = false ∧
    3 * median2 ((ctr63 10 10 3 eight).commits.map Prod.snd) ≤ 2 * (max (drawing63 (ctr63 10 10 3 eight) heldRun).now 35 - 5) := by decide +kernel

/-- The COPY is halted on a page in HOST since time 10; its sequence and page as given. -/
def haltedRun : Run := { copyRun with halt := some ⟨0x20, 0, 0, 3, 0, 10, 0, 1024, 10⟩ }
def resumable : State := copying [] (some { haltedRun with patch := [(0, 1)] })

theorem test_wit_RunsMoveByRule_resume :
    resumable.eng 3 6 = some { haltedRun with patch := [(0, 1)] } ∧ resumable.coreLive 3 = true ∧
    (resumable.at 50).repaired { haltedRun with patch := [(0, 1)] } ⟨0x20, 0, 0, 3, 0, 10, 0, 1024, 10⟩ = true ∧
    resumable.policy 0x0031 * 1000000 < max resumable.now 20000011 - 10 := by decide +kernel

/-! ## Test access port -/

def tapAt (i : Config.TapIns) : State := { ready with tap := { ready.tap with ir := i, extest := takesPins i } }

/-- Which codes select an instruction is opaque (log 17): one of the two clauses of shifting a code holds for each code. -/
theorem test_wit_TestPortShifts :
    (tapAt .bypass).tap.ir = .bypass ∧ (tapAt .idcode).tap.ir = .idcode ∧ (List.replicate 32 true).length = 32 ∧
    (tapAt .extest).tap.ir ≠ .idcode ∧ (tapAt .extest).tap.ir ≠ .bypass := by decide

/-! ## Ill-formed commands, one for each check of Instr.wf -/

theorem test_wf_bar0 :
    Instr.wf (.registerWrite 0x7FFFC (natLe 4 0)) = true ∧ Instr.wf (.registerWrite 0x7FFFD (natLe 4 0)) = false ∧
    Instr.wf (.registerWrite 0x80000 []) = false := by decide

theorem test_wf_bar2 :
    Instr.wf (.bar2Read (2 ^ 32 - 8) 8) = true ∧ Instr.wf (.bar2Read (2 ^ 32 - 8) 9) = false ∧ Instr.wf (.bar2Write (2 ^ 32) [0]) = false := by decide

theorem test_wf_msix :
    Instr.wf (.msixTableWrite 1020 (natLe 4 0)) = true ∧ Instr.wf (.msixTableWrite 1021 (natLe 4 0)) = false := by decide

theorem test_wf_lanes :
    Instr.wf (.calibrate 0 [] ⟨[(767, 9)], []⟩) = true ∧ Instr.wf (.calibrate 0 [] ⟨[(768, 0)], []⟩) = false ∧
    Instr.wf (.trim 0 [] ⟨[(768, 0)], []⟩) = false ∧
    Instr.wf (.longWindow 0 [(768, 0)] []) = false := by decide

theorem test_wf_dram :
    Instr.wf (.burstRewrite topBurst) = true ∧ Instr.wf (.burstRewrite (topBurst + 1)) = false ∧
    Instr.wf (.mirrorWrite (dramBytes - 1) [0, 0] []) = false ∧ Instr.wf (.dramRead dramBytes []) = false ∧ Instr.wf (.scrubRead 0 [(144, 1)]) = false ∧
    Instr.wf (.dramRead 0 [(0, 256)]) = false ∧ Instr.wf (.rowSpared 23 31 31 4096) = false ∧ Instr.wf (.rowSpared 24 0 0 0) = false ∧
    Instr.wf (.rowSpared 0 32 0 0) = false ∧ Instr.wf (.rowSpared 0 0 32 0) = false ∧ Instr.wf (.frameRetireCopy 4194304) = false ∧
    Instr.wf (.frameRetireCopy 4194303) = true := by decide

theorem test_wf_beat :
    Instr.wf (.beatEdge 0 (List.replicate 23 4500)) = false ∧ Instr.wf (.beatMiss 0 (List.replicate 25 4500)) = false ∧
    Instr.wf (.granuleGrant (.channel 24 0) 0) = false ∧ Instr.wf (.granuleGrant (.channel 0 32) 0) = false ∧ Instr.wf (.granuleGrant .host 0) = true := by decide

theorem test_wf_start :
    Instr.wf (.romCheck ⟨true, 0, 805⟩ 0) = false ∧ Instr.wf (.romCheck ⟨true, 0, 622⟩ 0) = false ∧ Instr.wf (.romCheck ⟨true, 3, 700⟩ 0) = false ∧
    Instr.wf (.dramTrain [(24, 0)] [] 0) = false ∧ Instr.wf (.dramTrain [] [(768, 0)] 0) = false ∧ Instr.wf (.linkTrain 5 32 [] true 0) = false ∧
    Instr.wf (.linkTrain 4 20 [] true 0) = false ∧ Instr.wf (.ucieRetrainComplete 5 32) = false ∧ Instr.wf (.holdExitComplete 4 9 [] 0) = false ∧
    Instr.wf (.thermtrip (some 24) 0) = false ∧ Instr.wf (.thermtrip none 0) = true := by decide

/-- An ill-formed command stops with the one fault. -/
theorem test_illFormed_stops : exec (.frameRetireCopy 4194304) ready = .fault .noSuchUnit := by rfl

/-! ## Worked examples of the spec -/

/-- Table 1.4. -/
theorem test_conversions :
    convertTo .e4m3 (.num false 17 (-4)) = (0x38, 0) ∧ convertTo .e4m3 (.num false 500 0) = (0x7E, fSat) ∧
    convertTo .e4m3 (.num false 1 (-10)) = (0x00, 0) ∧ convertTo .e4m3 (.num true 0 0) = (0x80, 0) ∧ convertTo .e5m2 (.inf false) = (0x7B, fInfSat) ∧
    (convertTo .e4m3 .nan).1 = 0x7F ∧ (convertTo .fp4 .nan).1 = 0 ∧ bitAt (convertTo .fp4 .nan).2 4 = true ∧ convertTo .bf16 (.num false 1 130) = (0x7F80, 0) := by decide

/-- The block of 01_number_formats after R27, with −0.375 in place of −0.3. -/
theorem test_quantise :
    quantMx .mxfp4 ([.num false 10 0, .num false 7 0, .num true 3 (-3)] ++ List.replicate 29 Val.zero) =
      (0x80, [0x6, 0x6, 0x8] ++ List.replicate 29 0, 0) := by decide

/-- Table 1.7. -/
theorem test_accumulate :
    let a := accChunk Val.zero [.num false 1 16]; let b := accChunk a [.num false 1 (-8)]
    enc32 a = 0x47800000 ∧ enc32 b = 0x47800000 ∧ enc32 (accChunk b [.num false 1 (-8)]) = 0x47800000 ∧
    enc32 (accChunk a [.num false 1 (-8), .num false 1 (-8)]) = 0x47800001 ∧ chunkLen .e4m3 .e4m3 = some 256 := by decide

/-- The 1,024 squares of 128 of the example after R126; padding changes nothing. -/
theorem test_rowStatistic :
    (rowStat .sumSq 12 ((List.range 1024).map (fun _ => .num false 1 7))) = rowStat .sumSq 10 ((List.range 1024).map (fun _ => .num false 1 7)) ∧
    encX (rowStat .sumSq 10 ((List.range 1024).map (fun _ => .num false 1 7))) = encX (.num false 1 24) := by decide +kernel

/-- The example of R41. -/
theorem test_longWord :
    (lwOfVal (.num false 3 0) (-2)).1.value = 3 * 2 ^ 147 ∧ (lwOfVal (.num false 3 0) (-2)).2 = 0 ∧
    enc32 ((lwOfVal (.num false 3 0) (-2)).1.add (lwOfVal (.num true 3 (-2)) 0).1).round = 0 := by decide

/-- Table 6.6: 3.5, −0.375 and 1.1875. -/
theorem test_merge :
    let f (n : Bool) (m : Nat) (e d : Int) : Lw := (lwOfVal (.num n m e) d).1
    enc32 (((f false 3 0 (-2)).add (f false 3 (-1) (-1))).add (f false 2 0 0)).round = 0x40600000 ∧
    enc32 (((f false 3 (-1) (-2)).add (f false 1 (-1) (-1))).add (f true 1 0 0)).round = 0xBEC00000 ∧
    enc32 (((f true 1 (-2) (-2)).add (f false 1 0 (-1))).add (f false 3 (-2) 0)).round = 0x3F980000 := by decide

/-- The normalisation after Table 6.6. -/
theorem test_reciprocal :
    enc32 (nativeFn .rcp (.num false 7 (-1))) = 0x3E924925 ∧ enc32 (mul32 (.num true 3 (-3)) (dec32 0x3E924925)) = 0xBDDB6DB8 := by decide +kernel

/-- The ends of the range of EXP2, after R136. -/
theorem test_exponential :
    nativeFn .exp2 (.num false 128 0) = .inf false ∧ enc32 (nativeFn .exp2 (.num true 150 0)) = 0 := by decide +kernel

/-- The address of 10_dram. -/
theorem test_dramAddress :
    dramLoc 0x2D600400 = ⟨1, 0, 8, 15⟩ ∧ 0x2D600400 / pageBytes = 2904 ∧ DramLoc.frames ⟨1, 0, 8, 15⟩ = [2904, 3000] := by decide

/-- Table 11.9. -/
theorem test_route :
    let t : Torus := ⟨(3, 30, 2), (16, 32, 40)⟩
    t.route (14, 1, 37) = .via .pxn ∧ ({ t with own := (14, 30, 2) } : Torus).route (14, 1, 37) = .via .pyp ∧
    ({ t with own := (14, 1, 2) } : Torus).route (14, 1, 37) = .via .pzn ∧ ({ t with own := (14, 1, 37) } : Torus).route (14, 1, 37) = .deliver := by decide

/-- The sequence of the example of 07_sequence_regions on member SIDX 2: RUN 16, 8 in its axis, 20 layers, 2 heads. -/
def exampleHeader : List Nat := headerOf (2097152 * 2 ^ 32 + 19 * 2 ^ 16 + 2 * 2 ^ 12 + 2 * 2 ^ 10 + 2 * 32 + 2) (16 * 2 ^ 32 + 2 * 2 ^ 16 + 8) (2 ^ 32 + 128)

/-- The example after R182. -/
theorem test_geometry :
    let m := geomOf exampleHeader
    m.kblk = 262144 ∧ hdrSize exampleHeader = 2684354560 ∧ m.owner 300 = 2 ∧ m.local_ 300 = 44 ∧ m.blockOff 5 1 44 = 0x2D600000 := by decide

/-- POLICY_GET of the power cap: its factory value (Table 18.10), and the protocol of R411. -/
theorem test_mailboxCommand :
    let w := after (.policyGet 0) (cmd 3 0xA1 [0x0012])
    (w.box 0).owner = 2 ∧ (w.box 0).status = 0 ∧ (w.box 0).resultLen = 16 ∧ (w.box 0).payload.readLe 0 8 = 450 := by decide +kernel

/-- The unit block of the TIER_EVICT example after R437. -/
theorem test_unitBlock :
    unitBlock (List.replicate 4 0 ++ [0xD, 0xD, 0xD] ++ List.replicate 33 0) =
      natLe 8 0xFFFFFFFF8F ++ List.replicate 8 0 ++ [0xD, 0, 0xD, 0, 0xD, 0] ++ List.replicate 66 0 ∧
    (unitBlock (List.replicate 4 0 ++ [0xD, 0xD, 0xD] ++ List.replicate 33 0)).length = 88 := by decide +kernel

/-- The check value of CRC-32C (log 16). -/
theorem test_crc : crc32c [0x31, 0x32, 0x33, 0x34, 0x35, 0x36, 0x37, 0x38, 0x39] = 0xE3069283 := by decide +kernel

/-- The digest of the empty string (FIPS 202). -/
theorem test_shake :
    shake256 32 [] = [0x46, 0xB9, 0xDD, 0x2B, 0x0B, 0xA8, 0x8D, 0x13, 0x23, 0x3B, 0x3F, 0xEB, 0x74, 0x3E, 0xEB, 0x24, 0x3F, 0xCD, 0x52,
      0xEA, 0x62, 0xB8, 0x1B, 0x82, 0xB5, 0x0C, 0x27, 0x64, 0x6E, 0xD5, 0x76, 0x2F] := by decide +kernel

/-! ## The queue -/

/-- An empty queue: the block idles (log 1). -/
theorem test_idle : step ready = .next ready := by rfl

theorem test_front :
    step { ready with pending := [.beatNumberLoRead, .quietSend] } = exec .beatNumberLoRead { ready with pending := [.quietSend] } := by rfl

/-! ## One command on a small state -/

/-- L 1 and N 7 at beat 65,536 (R238). -/
theorem test_beatSync :
    let w := after (.beatSync 0) (syncing 1)
    w.beatNo = 65542 ∧ (w.box 0).status = 0 := by decide +kernel

/-- R434, Table 7.2. -/
theorem test_seqOpen :
    let w := after (.seqOpen 0) openState
    w.lens 5 = ⟨0, 0, true, 512⟩ ∧ (w.box 0).status = 0 := by decide +kernel

/-- R187, R178. -/
theorem test_seqAppend :
    let w := after (.seqAppend 0 true) (give (opened 0) 0 2 0x41 0 (bytes64 appendWs))
    w.lens 5 = ⟨1, 0, true, 512⟩ ∧ hdrGen (w.hdr 5) = 2 := by decide +kernel

/-- Two provisional positions, one of them committed (R338). -/
theorem test_decision :
    let w := after (.decision 1 true) (preparedFor 1)
    w.lens 5 = ⟨5, 0, true, 512⟩ ∧ w.ep.lce = 1 ∧ w.ep.next = 2 ∧ w.ep.st = .idle := by decide +kernel

/-- R341 to R343. -/
theorem test_knell :
    let w := after (.knellNotice .pxn knell1 9) inStep
    w.ep.st = .idle ∧ w.ep.quiet = false ∧ (w.lens 5).prov = 0 ∧ (w.lens 5).committed = 4 := by decide +kernel

/-- R229, R232. -/
theorem test_haltNotice :
    (after (.haltNotice 1 5) (member 0 2)).car.haltedBy = [1] ∧ (after (.resumeNotice 1 40) (halted [1])).car.pauses = [(10, 40)] := by decide +kernel

/-- BND[31] := 77 (Table 2.7). -/
theorem test_bndset :
    let w := after (.bndset 3) (seqState 3)
    Table.get 0 (w.core 3).bnd 31 = 77 ∧ (w.core 3).pc = 4 := by decide +kernel

/-- COUNT 65,536 and F 15 on counter 63 (R94). -/
theorem test_wctrArm :
    Table.get none (after (.wctrArm 3) (seqState 5)).fab.ctrs 63 = some ⟨65536, 15, 0, [], [], [], []⟩ := by decide +kernel

/-- The one participant goes on (R68). -/
theorem test_gong :
    let w := after .gongRelease (waitingCore .atGong 2)
    (w.core 3).pc = 3 ∧ (w.core 3).csq = .running := by decide +kernel

/-- Two rows of four BF16 elements (R203). -/
theorem test_copy :
    let w := after (.copy 3 9 []) { copying [(6, [⟨0, copyWords, []⟩])] none with dram := { ready.dram with bytes := memAt 0 (List.replicate 16 7) } }
    (w.core 3).store.readN 0x100 18 = List.replicate 16 7 ++ [0, 0] ∧ w.eng 3 6 = none := by decide +kernel

/-- R301, R208. -/
theorem test_message :
    let w := after (.message .pxp (msgTo 0x10C 1 true) (natLe 4 0x01020304) [0] 9) receiving
    (w.core 3).store.readN 0x10A 6 = [0, 0, 4, 3, 2, 1] ∧ (w.core 3).sem 1 false = 65535 ∧ w.ep.poison = true := by decide +kernel

/-- 200 ns early or late are accepted (R237). -/
theorem test_beatEdge :
    let w := after (.beatEdge 1100200 temps0) (onBeat false 1 0)
    w.beat.num = 8 ∧ w.beat.start = 1100200 ∧ w.beat.misses = 0 ∧ Table.get 0 (after (.beatEdge 1100201 temps0) (onBeat false 1 0)).tele (teleKey 0 6) = 1 := by decide +kernel

/-- One wrong symbol is corrected (R253). -/
theorem test_dramRead :
    let w := after (.dramRead 127 [(143, 255)]) ready
    NatSet.has w.dram.writeback 0 = true ∧ Table.get 0 w.tele (teleKey 2 1) = 1 := by decide +kernel

/-- R259. -/
theorem test_rowSpared :
    (after (.rowSpared 23 31 31 4095) sparing).img.spareMap = [(lastRow.chanKey, 31, 4095, 15)] := by decide +kernel

/-- 22 ms (R384). -/
theorem test_holdExit :
    (after (.holdExitComplete 4 32 [] 22000007) exiting).cp.phase = 5 ∧ (after (.holdExitComplete 4 32 [] 22000008) exiting).cp.phase = 4 := by decide +kernel

/-- Above and at 450 W (R389). -/
theorem test_powerCap :
    (after (.powerSample 1000 0 450001 0) (drawing [])).pwr.duty = 64 ∧ (after (.powerSample 1000 0 450000 0) (drawing [])).pwr.capDuty = 66 := by decide +kernel

/-- R483. -/
theorem test_romCheck :
    (after (.romCheck ⟨true, 0, 620⟩ 50) (inPhase 0)).cp.phase = 1 ∧ (after (.romCheck ⟨false, 2, 800⟩ 50) (inPhase 0)).cp.fail = 1 := by decide +kernel

/-- CHIME_STATUS bits are cleared by writing 1 (Table 17.2). -/
theorem test_chimes :
    let s := { ready with bar := { ready.bar with chimeStatus := 0xF0 } }
    (after (.chimeStatusWrite .both 0x30) s).bar.chimeStatus = 0xC0 ∧ (after (.chimeMaskWrite .lo 5) s).bar.chimeMask = 5 := by decide +kernel

/-- R406. -/
theorem test_aperture : (after (.apertureBaseWrite 47) ready).bar.window = 47 := by decide +kernel

/-- BYPASS is one bit (R497). -/
theorem test_tap :
    (after (.testAccessPort (.shiftDr [true, false, true])) (tapAt .bypass)).out = [.tdo [false, true, false]] := by decide +kernel

/-- R356. -/
theorem test_twinRole :
    let w := after .roleNotice activeSide
    w.twin.role = 2 ∧ w.twin.valid = false ∧ w.out = [.ptNotice "ROLE" [] []] := by decide +kernel

/-- F 3 times the median of 10 ns (R100). -/
theorem test_rescue :
    (after (.rescueMark 63 1 35) { drawing63 (ctr63 10 10 3 eight) heldRun with cores := [(3, { ctlCore [] [copyDesc] [[0, 64], [0, 64 + 3 * 2 ^ 48]] with engs := [(6, some heldRun)] })] }).ctr 63 =
      some { ctr63 10 10 3 eight with marks := [1] } := by decide +kernel

/-- Table 5.5: the backward step of profile L (R141). -/
theorem test_rsqrt_backward_step :
    enc32 (profileLFn .rsqrt (dec32 0x3F7FFFFF)) = 0x3F7FFFFF ∧
      enc32 (profileLFn .rsqrt (dec32 0x3F800000)) = 0x3F800000 ∧
      enc32 (profileLFn .rsqrt (dec32 0x407FFFFF)) = 0x3EFFFFFF ∧
      enc32 (profileLFn .rsqrt (dec32 0x417FFFFF)) = 0x3E7FFFFF := by decide +kernel

end Sys2Proof.Tests
end

section
/-!
PROOFS. The beat on the links (R239): what an idle flit carries, and what its receiver counts. The beat and the counts of beat
mismatches are one view of the state, which sending, the knell, a port that goes down and the router all leave as it is.
-/
namespace Sys2Proof.Machine

/-! ### The idle flit that a port sends -/

/-- What a flit returns fits its fields CPOOL and CCNT (Table 11.3). -/
theorem PortS.credit_fits (x : PortS) : x.credit.1 < 8 ∧ x.credit.2.1 < 32 := by
  unfold PortS.credit
  split
  · next i h =>
    have hi : i < 8 := List.mem_range.1 (List.mem_of_find?_eq_some h)
    exact ⟨hi, by simp only; omega⟩
  · exact ⟨by simp, by simp⟩

/-- With credits that fit their fields, bits [30:15] of an idle header are the beat bits. -/
theorem fld_idleHdr_beat (ack beat : Nat) {pool n : Nat} (hp : pool < 8) (hn : n < 32) :
    fld (idleHdr ack beat pool n) 30 15 = beat % 65536 := by
  simp only [fld, idleHdr, place, Nat.shiftLeft_eq, Nat.shiftRight_eq_div_pow]
  omega

theorem State.sendIdle_out (s : State) (p : Port) : (s.sendIdle p).out = s.out ++ [.flit p (flitEncode
    (idleHdr (s.port p).credit.2.2.rxSeq s.beatNo (s.port p).credit.1 (s.port p).credit.2.1) [])] := rfl

/-! ### The beat and the counts of beat mismatches -/

/-- TELEMETRY's count of beat mismatches of a port (Table 18.4). -/
def State.beatMismatches (s : State) (p : Port) : Nat := Table.get 0 s.tele (teleKey 1 (16 * Port.idx p + 5))

/-- The beat, and the count of beat mismatches of every port. -/
def State.beatPart (s : State) : Beat × (Port → Nat) := (s.beat, s.beatMismatches)

theorem State.beatPart_eq {s t : State} (hb : t.beat = s.beat) (ht : t.tele = s.tele) : t.beatPart = s.beatPart := by
  unfold State.beatPart State.beatMismatches
  rw [hb, ht]

theorem State.beat_of_beatPart {s t : State} (h : t.beatPart = s.beatPart) : t.beat = s.beat := congrArg Prod.fst h

theorem State.beatMismatches_of_beatPart {s t : State} (h : t.beatPart = s.beatPart) (p : Port) :
    t.beatMismatches p = s.beatMismatches p := congrFun (congrArg Prod.snd h) p

theorem State.beatNo_of_beatPart {s t : State} (h : t.beatPart = s.beatPart) : t.beatNo = s.beatNo := by
  unfold State.beatNo
  rw [State.beat_of_beatPart h]

/-- A run over a list keeps the view when each of its steps does. -/
theorem foldl_beatPart {α : Type} {f : State → α → State} {l : List α}
    (h : ∀ s, ∀ x ∈ l, (f s x).beatPart = s.beatPart) (s : State) : (l.foldl f s).beatPart = s.beatPart := by
  induction l generalizing s with
  | nil => rfl
  | cons x l ih =>
    rw [List.foldl_cons, ih (fun s y hy => h s y (List.mem_cons_of_mem _ hy)), h s x List.mem_cons_self]

@[simp] theorem State.setPort_beatPart (s : State) (p : Port) (x : PortS) : (s.setPort p x).beatPart = s.beatPart := rfl
@[simp] theorem State.updPort_beatPart (s : State) (p : Port) (f : PortS → PortS) : (s.updPort p f).beatPart = s.beatPart := rfl
@[simp] theorem State.updCore_beatPart (s : State) (c : Nat) (f : Core → Core) : (s.updCore c f).beatPart = s.beatPart := rfl
@[simp] theorem State.setCore_beatPart (s : State) (c : Nat) (k : Core) : (s.setCore c k).beatPart = s.beatPart := rfl
@[simp] theorem State.emit_beatPart (s : State) (o : Out) : (s.emit o).beatPart = s.beatPart := rfl
@[simp] theorem State.putFlit_beatPart (s : State) (p : Port) (f : Flit) : (s.putFlit p f).beatPart = s.beatPart := rfl
@[simp] theorem State.drew_beatPart (s : State) (n : Nat) : (s.drew n).beatPart = s.beatPart := rfl
@[simp] theorem State.logEvent_beatPart (s : State) (kind i code d0 d1 : Nat) :
    (s.logEvent kind i code d0 d1).beatPart = s.beatPart := rfl
@[simp] theorem State.logCp_beatPart (s : State) (code d0 d1 : Nat) : (s.logCp code d0 d1).beatPart = s.beatPart := rfl
@[simp] theorem State.startCopy_beatPart (s : State) (r : Nat) : (s.startCopy r).beatPart = s.beatPart := rfl
@[simp] theorem State.addHalt_beatPart (s : State) (ns : Nat) : (s.addHalt ns).beatPart = s.beatPart := rfl
@[simp] theorem State.zeroProv_beatPart (s : State) : s.zeroProv.beatPart = s.beatPart := rfl
@[simp] theorem State.settleUnits_beatPart (s : State) (k : JobKind) (r st : Nat) (f : Option Bool) :
    (s.settleUnits k r st f).beatPart = s.beatPart := rfl
@[simp] theorem State.withRt_beatPart (s : State) (r : Router) : ({ s with rt := r } : State).beatPart = s.beatPart := rfl
@[simp] theorem State.withEp_beatPart (s : State) (e : Epoch) : ({ s with ep := e } : State).beatPart = s.beatPart := rfl
@[simp] theorem State.withEv_beatPart (s : State) (e : Events) : ({ s with ev := e } : State).beatPart = s.beatPart := rfl
@[simp] theorem State.withFabRt_beatPart (s : State) (f : Fabric) (r : Router) :
    ({ s with fab := f, rt := r } : State).beatPart = s.beatPart := rfl
@[simp] theorem State.eventChime_beatPart (s : State) : s.eventChime.beatPart = s.beatPart :=
  State.beatPart_eq (State.chime_beat ..) (State.chime_tele ..)
@[simp] theorem State.reply_beatPart (s : State) (n code detail : Nat) (bytes : List Byte) (bitmap : Nat) :
    (s.reply n code detail bytes bitmap).beatPart = s.beatPart :=
  State.beatPart_eq (State.reply_beat ..) (State.reply_tele ..)

/-- Of a port's sixteen counters only the sixth counts beat mismatches. -/
theorem State.count_beatPart (s : State) {n : Nat} (k : Nat) (h : n % 16 ≠ 5) : (s.count 1 n k).beatPart = s.beatPart := by
  refine Prod.ext rfl (funext fun q => ?_)
  show Table.get 0 (s.count 1 n k).tele _ = Table.get 0 s.tele _
  rw [State.count_tele, Table.get_upd, if_neg]
  unfold teleKey
  omega

theorem State.count_beatMismatches (s : State) (p : Port) (k : Nat) :
    (s.count 1 (16 * Port.idx p + 5) k).beatMismatches p = s.beatMismatches p + k := by
  unfold State.beatMismatches
  rw [State.count_tele, Table.get_upd, if_pos rfl]

/-! ### Sending -/

@[simp] theorem State.sendIdle_beatPart (s : State) (p : Port) : (s.sendIdle p).beatPart = s.beatPart := rfl

@[simp] theorem State.forceIdle_beatPart (s : State) (p : Port) : (s.forceIdle p).beatPart = s.beatPart := by
  unfold State.forceIdle
  split <;> simp

@[simp] theorem State.freeBuf_beatPart (s : State) (src : Option Port) (pool : Nat) : (s.freeBuf src pool).beatPart = s.beatPart := by
  cases src <;> rfl

@[simp] theorem State.pump_beatPart (n : Nat) (s : State) (p : Port) : (State.pump n s p).beatPart = s.beatPart := by
  induction n generalizing s with
  | zero => rfl
  | succ n ih =>
    simp only [State.pump]
    split
    · rfl
    · split
      · rfl
      · have sent : ∀ t : State, (t.count 1 (16 * Port.idx p + 1) 1).beatPart = t.beatPart := fun t =>
          t.count_beatPart 1 (by omega)
        simp [ih, sent]

@[simp] theorem State.absorb_beatPart (s : State) (h : Nat) : (s.absorb h).beatPart = s.beatPart := by
  unfold State.absorb
  split <;> rfl

@[simp] theorem State.unrouted_beatPart (s : State) (p : Port) (h : Nat) : (s.unrouted p h).beatPart = s.beatPart := by
  unfold State.unrouted State.logOnce
  split <;> exact State.absorb_beatPart s h

@[simp] theorem State.sendFrom_beatPart (s : State) (p : Port) (src : Option Port) (pool : Nat) (f : Flit) :
    (s.sendFrom p src pool f).beatPart = s.beatPart := by
  unfold State.sendFrom
  dsimp only
  repeat' split
  all_goals simp

@[simp] theorem State.sendFlit_beatPart (s : State) (p : Port) (f : Flit) : (s.sendFlit p f).beatPart = s.beatPart :=
  State.sendFrom_beatPart ..

@[simp] theorem State.floodKnell_beatPart (s : State) (k : KnellMsg) (ps : List Port) : (s.floodKnell k ps).beatPart = s.beatPart := by
  unfold State.floodKnell
  split
  · rfl
  · exact foldl_beatPart (fun s p _ => by split <;> simp) s

/-! ### Releasing what an epoch holds -/

@[simp] theorem Page.upd_beatPart (s : State) (r : Nat) (f : Page → Page) : (Page.upd s r f).beatPart = s.beatPart := by
  unfold Page.upd
  split <;> rfl

@[simp] theorem State.drain_beatPart (s : State) (r : Nat) (p : Page) : (s.drain r p).beatPart = s.beatPart := by
  unfold State.drain
  split <;> rfl

@[simp] theorem State.toHost_beatPart (s : State) (r : Nat) : (s.toHost r).beatPart = s.beatPart := by
  unfold State.toHost
  split <;> simp

@[simp] theorem State.finishTiers_beatPart (s : State) : s.finishTiers.beatPart = s.beatPart :=
  foldl_beatPart (fun _ _ _ => State.reply_beatPart ..) s

@[simp] theorem State.settle_beatPart (s : State) (r : Nat) : (s.settle r).beatPart = s.beatPart := by
  unfold State.settle
  repeat' split
  all_goals simp

@[simp] theorem State.unpinAll_beatPart (s : State) (rs : List Nat) : (s.unpinAll rs).beatPart = s.beatPart :=
  foldl_beatPart (fun _ _ _ => by simp) s

@[simp] theorem State.tellTwin_beatPart (s : State) (name : String) (args : List Nat) (bytes : List Byte) :
    (s.tellTwin name args bytes).beatPart = s.beatPart := by
  unfold State.tellTwin
  split <;> simp

@[simp] theorem State.tellSeq_beatPart (s : State) (seq : Nat) : (s.tellSeq seq).beatPart = s.beatPart := by
  simp [State.tellSeq]

/-! ### The knell -/

@[simp] theorem State.undefine_beatPart (s : State) (c : Nat) : (s.undefine c).beatPart = s.beatPart :=
  foldl_beatPart (fun _ _ _ => by simp) s

@[simp] theorem State.settleHalts_beatPart (s : State) : s.settleHalts.beatPart = s.beatPart := by
  refine foldl_beatPart (fun _ _ _ => ?_) s
  repeat' split
  all_goals simp

@[simp] theorem State.stopStep_beatPart (s : State) : s.stopStep.beatPart = s.beatPart := by
  unfold State.stopStep
  rw [State.withFabRt_beatPart, foldl_beatPart fun _ _ _ => by simp, State.settleHalts_beatPart]

@[simp] theorem State.abortJobs_beatPart (s : State) (cause : Nat) : (s.abortJobs cause).beatPart = s.beatPart :=
  foldl_beatPart (fun _ _ _ => State.reply_beatPart ..) s

@[simp] theorem State.knellActs_beatPart (s : State) (k : KnellMsg) : (s.knellActs k).beatPart = s.beatPart := by
  have told : ∀ (l : List (Nat × Nat)) (t : State), (l.foldl (fun s e => s.tellSeq e.1) t).beatPart = t.beatPart := fun l =>
    foldl_beatPart fun _ _ _ => by simp
  unfold State.knellActs
  dsimp only
  split <;> split <;> simp [told]

@[simp] theorem State.raiseKnell_beatPart (s : State) (cause fault kind i : Nat) :
    (s.raiseKnell cause fault kind i).beatPart = s.beatPart := by
  unfold State.raiseKnell
  split
  · rfl
  · dsimp only
    split <;> simp

@[simp] theorem State.applySig_beatPart (s : State) (g : Sig) (c : Nat) : (s.applySig g c).beatPart = s.beatPart := by
  unfold State.applySig State.applySigOf
  dsimp only
  split
  · simp [State.faultKnell, State.logFault]
  · simp

/-! ### A port that degrades or goes down -/

@[simp] theorem State.stale_beatPart (s : State) (cause : Nat) (valid : Bool) : (s.stale cause valid).beatPart = s.beatPart := by
  unfold State.stale
  dsimp only
  split
  · rfl
  · rw [foldl_beatPart fun _ _ _ => State.reply_beatPart ..]
    split <;> rfl

@[simp] theorem State.ptLost_beatPart (s : State) : s.ptLost.beatPart = s.beatPart := by
  unfold State.ptLost
  split <;> simp

@[simp] theorem State.dropFlits_beatPart (s : State) (p : Port) (fs : List Queued) : (s.dropFlits p fs).beatPart = s.beatPart :=
  foldl_beatPart (fun _ _ _ => by simp) s

@[simp] theorem State.portDown_beatPart (s : State) (p : Port) : (s.portDown p).beatPart = s.beatPart := by
  have lost : ∀ (l : List Flit) (t : State), (l.foldl (fun s f => s.absorb f.1) t).beatPart = t.beatPart := fun l =>
    foldl_beatPart fun _ _ _ => by simp
  unfold State.portDown
  dsimp only
  repeat' split
  all_goals simp [lost]

@[simp] theorem State.laneFail_beatPart (s : State) (p : Port) (lane : Nat) : (s.laneFail p lane).beatPart = s.beatPart := by
  unfold State.laneFail
  repeat' split
  all_goals simp

/-! ### Receiving -/

/-- The symbols corrected are counted by lane, after the count of beat mismatches. -/
@[simp] theorem State.noteFixes_beatPart (s : State) (p : Port) (at_ : List Nat) : (s.noteFixes p at_).beatPart = s.beatPart := by
  unfold State.noteFixes
  dsimp only
  rw [foldl_beatPart fun _ _ _ => by simp, State.updPort_beatPart]
  refine foldl_beatPart (fun t l hl => t.count_beatPart _ ?_) s
  have := List.mem_range.1 hl
  omega

@[simp] theorem State.mirrorAcked_beatPart (s : State) (p : Port) : (s.mirrorAcked p).beatPart = s.beatPart := by
  unfold State.mirrorAcked
  split <;> rfl

@[simp] theorem State.takeAck_beatPart (s : State) (p : Port) (h : Nat) : (s.takeAck p h).beatPart = s.beatPart := by
  simp [State.takeAck, State.pumpAll, State.noteAck]

/-! ### Flits that have left -/

@[simp] theorem State.settleSources_beatPart (s : State) : s.settleSources.beatPart = s.beatPart := by
  unfold State.settleSources
  dsimp only
  rw [foldl_beatPart fun _ _ _ => by split <;> simp, State.withRt_beatPart]

@[simp] theorem State.release_beatPart (s : State) (r : CarRec) (pop use : Nat) : (s.release r pop use).beatPart = s.beatPart := by
  unfold State.release
  split
  · rfl
  · dsimp only
    repeat' split
    all_goals simp

@[simp] theorem State.settleLeft_beatPart (s : State) : s.settleLeft.beatPart = s.beatPart := by
  unfold State.settleLeft
  dsimp only
  split
  · simp
  · rw [foldl_beatPart fun _ _ _ => State.release_beatPart .., State.settleSources_beatPart]

/-! ### The idle flit that a port receives -/

/-- A trained port that receives a good IDLE flit counts a beat that differs from its own, and takes the flit's ACK. -/
theorem State.idleFlit_trained {s : State} {p : Port} {raw fx : List Byte} {at_ : List Nat} (hs : (s.port p).trained = true)
    (ht : (s.port p).train = none) (hd : flitDecode raw = some (fx, at_)) (h0 : hdrType (leNat (fx.take 8)) = 0) :
    ∃ f : PortS → PortS, s.idleFlit p raw =
      ((if fld (leNat (fx.take 8)) 30 15 ≠ s.beatNo % 65536 then (s.noteFixes p at_).count 1 (16 * Port.idx p + 5) 1
        else s.noteFixes p at_).updPort p f).takeAck p (leNat (fx.take 8)) := by
  refine ⟨fun x => { x with beat16 := some (fld (leNat (fx.take 8)) 30 15) }, ?_⟩
  simp [State.idleFlit, hs, ht, hd, h0, State.beatNo_of_beatPart (s.noteFixes_beatPart p at_)]

/-- Settles O50: the header that the port forms holds the beat bits; of all that a received flit brings about, the comparison
of its beat bits alone counts a mismatch, and nothing moves the beat. -/
theorem idleFlitsCarryBeat : Obligations.IdleFlitsCarryBeat := by
  unfold Obligations.IdleFlitsCarryBeat
  refine ⟨fun s p => ⟨_, s.sendIdle_out p, fld_idleHdr_beat _ _ (PortS.credit_fits _).1 (PortS.credit_fits _).2⟩, ?_⟩
  intro s p raw fx at_ hs ht hd h0
  refine ⟨(s.idleFlit p raw).settleLeft, rfl, ?_⟩
  obtain ⟨f, hf⟩ := State.idleFlit_trained hs ht hd h0
  have noted := s.noteFixes_beatPart p at_
  rw [hf]
  split
  · next differs =>
    have counted : ((((s.noteFixes p at_).count 1 (16 * Port.idx p + 5) 1).updPort p f).takeAck p
        (leNat (fx.take 8))).settleLeft.beatPart = ((s.noteFixes p at_).count 1 (16 * Port.idx p + 5) 1).beatPart := by simp
    exact ⟨((State.beat_of_beatPart counted).trans (State.count_beat ..)).trans (State.beat_of_beatPart noted),
      (State.beatMismatches_of_beatPart counted p).trans (by
        rw [State.count_beatMismatches, State.beatMismatches_of_beatPart noted]; rfl)⟩
  · next same =>
    have kept : (((s.noteFixes p at_).updPort p f).takeAck p (leNat (fx.take 8))).settleLeft.beatPart = s.beatPart := by simp
    exact ⟨State.beat_of_beatPart kept, State.beatMismatches_of_beatPart kept p⟩

end Sys2Proof.Machine
end

section
/-!
PROOFS. Axes and member indices (R291): the bounds that the fields of Table 12.1 and the checks of carRecOf give, and the
member index as a number of mixed radix whose digits are the axis indices.
-/
namespace Sys2Proof.Machine

/-! ### The sizes of a descriptor -/

theorem fld_lt (w hi lo : Nat) : fld w hi lo < 2 ^ (hi + 1 - lo) := Nat.mod_lt _ (Nat.two_pow_pos _)

theorem CarRec.tsize_pos (r : CarRec) : 0 < r.tsize := Nat.succ_pos _

theorem CarRec.ssize_pos (r : CarRec) : 0 < r.ssize := Nat.succ_pos _

theorem CarRec.tsize_le (r : CarRec) : r.tsize ≤ 256 := fld_lt _ 39 32

theorem CarRec.ssize_le (r : CarRec) : r.ssize ≤ 256 := fld_lt _ 47 40

/-- A payload that is taken apart has passed the checks on its size, on M and on SWIDTH. -/
theorem carRecOf_some {bs : List Byte} {r : CarRec} (h : carRecOf bs = some r) :
    bs.length = 64 + 8 * r.count + roundUp (2 * r.sw) 8 + fld (r.desc.getD 5 0) 63 32 ∧
      r.count ≤ 20480 ∧ 0 < r.sw ∧ r.sw ≤ 20480 := by
  unfold carRecOf at h
  dsimp only at h
  split at h
  · cases h
  · next passed =>
    simp only [Bool.or_eq_true, decide_eq_true_eq, not_or, Nat.not_lt, ne_eq, Decidable.not_not] at passed
    obtain ⟨⟨⟨hlen, hcount⟩, hsw⟩, hswLe⟩ := passed
    cases h
    exact ⟨hlen, hcount, Nat.pos_of_ne_zero hsw, hswLe⟩

/-! ### Member index and axis indices -/

theorem CarRec.axes_memberAt (r : CarRec) {t st : Nat} (q : Nat) (ht : t < r.tsize) (hst : st < r.ssize) :
    r.axes (r.memberAt t st q) = (t, st, q) := by
  obtain ⟨rest, tensor⟩ : r.memberAt t st q / r.tsize = q * r.ssize + st ∧ r.memberAt t st q % r.tsize = t :=
    (Nat.div_mod_unique r.tsize_pos).2 ⟨by rw [CarRec.memberAt, Nat.add_comm, Nat.mul_comm], ht⟩
  obtain ⟨sequence, stage⟩ : (q * r.ssize + st) / r.ssize = q ∧ (q * r.ssize + st) % r.ssize = st :=
    (Nat.div_mod_unique r.ssize_pos).2 ⟨by rw [Nat.add_comm, Nat.mul_comm], hst⟩
  rw [CarRec.axes, ← Nat.div_div_eq_div_mul, tensor, rest, stage, sequence]

theorem CarRec.memberAt_axes (r : CarRec) (m : Nat) :
    r.memberAt (r.axes m).1 (r.axes m).2.1 (r.axes m).2.2 = m := by
  simp only [CarRec.memberAt, CarRec.axes, ← Nat.div_div_eq_div_mul, Nat.div_add_mod']

/-- A digit below its radix keeps a number of two digits below the product of the radices. -/
theorem mul_add_lt_mul {a b m n : Nat} (ha : a < m) (hb : b < n) : a * n + b < m * n :=
  calc a * n + b
    _ < a * n + n := Nat.add_lt_add_left hb _
    _ = (a + 1) * n := (Nat.succ_mul a n).symm
    _ ≤ m * n := Nat.mul_le_mul_right n ha

theorem CarRec.memberAt_lt_count (r : CarRec) {t st q : Nat} (ht : t < r.tsize) (hst : st < r.ssize) (hq : q < r.sw) :
    r.memberAt t st q < r.count :=
  calc (q * r.ssize + st) * r.tsize + t
    _ < r.sw * r.ssize * r.tsize := mul_add_lt_mul (mul_add_lt_mul hq hst) ht
    _ = r.count := by rw [CarRec.count]; ac_rfl

theorem CarRec.axes_lt (r : CarRec) {m : Nat} (hm : m < r.count) :
    (r.axes m).1 < r.tsize ∧ (r.axes m).2.1 < r.ssize ∧ (r.axes m).2.2 < r.sw :=
  ⟨Nat.mod_lt _ r.tsize_pos, Nat.mod_lt _ r.ssize_pos, Nat.div_lt_of_lt_mul hm⟩

/-- Settles O35: the widths of T and S in the descriptor and the checks of carRecOf bound the sizes, and below them memberAt
and axes undo each other. -/
theorem memberAxes : Obligations.MemberAxes := by
  unfold Obligations.MemberAxes
  intro bs r h
  obtain ⟨-, hcount, hsw, hswLe⟩ := carRecOf_some h
  refine ⟨r.tsize_pos, r.tsize_le, r.ssize_pos, r.ssize_le, hsw, hswLe, rfl, hcount, ?_, ?_⟩
  · intro t st q ht hst hq
    exact ⟨r.memberAt_lt_count ht hst hq, r.axes_memberAt q ht hst⟩
  · intro m hm
    obtain ⟨ht, hst, hq⟩ := r.axes_lt hm
    exact ⟨ht, hst, hq, (r.memberAt_axes m).symm⟩

end Sys2Proof.Machine
end

section
/-!
PROOFS. Rules for the branches of an operation, and for a command given as its rule wants it.
-/
namespace Sys2Proof.Machine
set_option Elab.async false

/- ### The branches of an operation -/

theorem ite_eq_of_true {b : Bool} {x y z : State} (h : b = true) (e : x = z) : (if b = true then x else y) = z :=
  (if_pos h).trans e

theorem ite_eq_of_false {b : Bool} {x y z : State} (h : b = false) (e : y = z) : (if b = true then x else y) = z :=
  (if_neg (ne_true_of_eq_false h)).trans e

theorem ite_then {c : Prop} [Decidable c] {x y : State} (h : c) : (if c then x else y) = x := if_pos h

theorem ite_else {c : Prop} [Decidable c] {x y : State} (h : ¬ c) : (if c then x else y) = y := if_neg h

theorem or_eq_false_of {a b : Bool} (ha : a = false) (hb : b = false) : (a || b) = false := Bool.or_eq_false_iff.2 ⟨ha, hb⟩

theorem and_eq_true_of {a b : Bool} (ha : a = true) (hb : b = true) : (a && b) = true := Bool.and_eq_true_iff.2 ⟨ha, hb⟩

theorem not_lt_false {m n : Nat} (h : n ≤ m) : decide (m < n) = false := decide_eq_false (Nat.not_lt.2 h)

theorem next_then {b : Bool} {z y : State} (h : b = true) :
    (.next z : Host.Outcome State Fault Refusal) = .next (if b = true then z else y) := congrArg _ (if_pos h).symm

theorem next_else {b : Bool} {z x : State} (h : b = false) :
    (.next z : Host.Outcome State Fault Refusal) = .next (if b = true then x else z) := congrArg _ (if_neg (ne_true_of_eq_false h)).symm

/- ### A command given as its rule wants it -/

section
variable {s t : State} {n : Fin 64} {op w : Nat} {masks : List Nat} {bs : List Byte}

theorem next_serve {k : State → List Byte → State} (h : Given s n op masks bs) (e : k s bs = t) :
    (.next (s.serve n.val op masks k) : Host.Outcome State Fault Refusal) = .next t := congrArg _ ((serve_given h).trans e)

theorem next_serveG1 {k : State → List Byte → State} (h : GivenG1 s n op bs) (e : k s bs = t) :
    (.next (s.serveG1 n.val op k) : Host.Outcome State Fault Refusal) = .next t := congrArg _ ((serveG1_given h).trans e)

theorem next_serve_sized {f : List Byte → State → State} (h : Given s n op masks bs) (hl : bs.length = w) (e : f bs s = t) :
    (.next (s.serve n.val op masks (fun s bs => s.sized n.val bs w (f bs))) : Host.Outcome State Fault Refusal) = .next t :=
  next_serve h ((sized_eq hl).trans e)

theorem next_serveG1_sized {f : List Byte → State → State} (h : GivenG1 s n op bs) (hl : bs.length = w) (e : f bs s = t) :
    (.next (s.serveG1 n.val op (fun s bs => s.sized n.val bs w (f bs))) : Host.Outcome State Fault Refusal) = .next t :=
  next_serveG1 h ((sized_eq hl).trans e)

end

end Sys2Proof.Machine
end

section
/-!
PROOFS. The queue, the state after reset and the write to RESET_CTL.
-/
namespace Sys2Proof.Machine
set_option Elab.async false

/- ### The queue and the state after reset -/

theorem step_nil {s : State} (h : s.pending = []) : step s = .next s := by
  unfold step
  rw [h]

/-- Settles O1: the two cases of the queue, each by definition. -/
theorem stepRunsFrontCommand : Obligations.StepRunsFrontCommand :=
  ⟨fun _c _rest _s => rfl, fun _s h => step_nil h⟩

/-- Settles O5: every memory after reset is empty or well formed by computation. -/
theorem invariantAtReset : Obligations.InvariantAtReset :=
  And.intro (List.forall_mem_nil _)
    ⟨rfl, fun _h => rfl, rfl, rfl, by decide, rfl, rfl, Nat.zero_le _, rfl, by decide, rfl, fun _h => rfl⟩

/- ### The write to RESET_CTL -/

theorem bitAt_eq (w i : Nat) : bitAt w i = w.testBit i :=
  (congrArg (fun k => (w >>> i) % 2 ^ k == 1) (Nat.add_sub_cancel_left i 1)).trans
    ((Nat.testBit_zero (w >>> i)).symm.trans (Nat.testBit_shiftRight w))

theorem fld_upper_half (v : Word32) : fld v.toNat 31 16 = v.toNat / 65536 :=
  (congrArg (fun x => x % 2 ^ 16) (Nat.shiftRight_eq_div_pow ..)).trans (Nat.mod_eq_of_lt (Nat.div_lt_of_lt_mul v.isLt))

theorem decide_and_and {p q : Prop} [Decidable p] [Decidable q] {b : Bool} : (decide p && b && decide q) = true ↔ p ∧ b = true ∧ q :=
  Bool.and_eq_true_iff.trans ((and_congr (Bool.and_eq_true_iff.trans (and_congr_left' decide_eq_true_iff)) decide_eq_true_iff).trans
    and_assoc)

/-- The test that RESET_CTL puts to its value (R404, R479). -/
theorem resetCtl_iff (s : State) (v : Word32) : (fld v.toNat 31 16 = 0xA5C3 && bitAt v.toNat 0 && s.cp.phase ≠ 5) = true ↔
    v.toNat / 65536 = 0xA5C3 ∧ v.getLsbD 0 = true ∧ s.cp.phase ≠ 5 := by
  rw [fld_upper_half, bitAt_eq]
  exact decide_and_and

/-- Settles O12: the value passes the test of RESET_CTL exactly under the conditions given. -/
theorem resetCtlStartsWarmReset : Obligations.ResetCtlStartsWarmReset := fun s v h =>
  ⟨fun hc => congrArg _ (ite_eq_of_true h (ite_eq_of_true ((resetCtl_iff s v).2 hc) (congrArg (s.takeReset 2) (bitAt_eq ..)))),
    fun hc => congrArg _ (ite_eq_of_true h (if_neg (mt (resetCtl_iff s v).1 hc)))⟩

end Sys2Proof.Machine
end

section
/-!
PROOFS. What the host writes to a mailbox: its OWNER word and its payload.
-/
namespace Sys2Proof.Machine
set_option Elab.async false

theorem leNat_natLe (n : Nat) : ∀ v : Nat, leNat (natLe n v) = v % 256 ^ n := by
  induction n with
  | zero => exact fun v => (Nat.mod_one v).symm
  | succ n ih =>
    exact fun v => (congrArg (fun x => v % 256 + 256 * x) (ih (v / 256))).trans
      (Nat.mod_mul.symm.trans (congrArg (fun x => v % x) (Nat.pow_succ' ..).symm))

/-- A header word is read back from its bytes. -/
theorem ofNat_leNat_natLe (w : Word32) : BitVec.ofNat 32 (leNat (natLe 4 w.toNat)) = w :=
  (congrArg (BitVec.ofNat 32) ((leNat_natLe 4 _).trans (Nat.mod_eq_of_lt w.isLt))).trans
    ((BitVec.ofNat_toNat 32 w).trans (BitVec.setWidth_eq w))

/-- The header words read back from their bytes are the mailbox's. -/
theorem Mbox.reread (b : Mbox) (r : Word32 → Word32) (h : ∀ w, r w = w) (pay : Mem) :
    (⟨b.owner, r b.gen, r b.opflags, r b.tag, r b.length, r b.status, r b.resultLen, r b.bitmap, pay⟩ : Mbox) = { b with payload := pay } :=
  congrArg (fun f : Word32 → Word32 => Mbox.mk b.owner (f b.gen) (f b.opflags) (f b.tag) (f b.length) (f b.status) (f b.resultLen)
    (f b.bitmap) pay) (funext h : r = fun w => w)

/-- A store of the OWNER word leaves every other word as it was. -/
theorem Mbox.store_owner (b : Mbox) (v : Nat) : b.store 0 (natLe 4 v) = b := b.reread _ ofNat_leNat_natLe _

theorem State.mboxWrite_owned {s : State} {n : Nat} (off : Nat) {data : List Byte} (hd : data.isEmpty = false) (h : (s.box n).owner = 1) :
    s.mboxWrite n off data = s.count 0 9 1 := ite_eq_of_false hd (if_pos h)

theorem State.setBox_box {s : State} (hs : Sound s) (n : Nat) : s.setBox n (s.box n) = s :=
  congrArg (fun t => { s with mb := { s.mb with box := t } }) (Table.set_get hs.2.1 n)

/-- An OWNER write to a mailbox that the device does not own. -/
theorem exec_ownerWrite {s : State} (hs : Sound s) (hb : s.barOpen = true) {n : Fin 64} (h : (s.box n.val).owner ≠ 1) (v : Word32) :
    exec (.ownerWrite n v []) s = .next (s.putOwner n.val (leNat (natLe 4 v.toNat))) :=
  congrArg _ (ite_eq_of_true hb (ite_eq_of_false rfl ((if_neg h).trans
    (congrArg (fun t : State => t.putOwner n.val (leNat (natLe 4 v.toNat)))
      ((congrArg (s.setBox n.val) (Mbox.store_owner _ v.toNat)).trans (s.setBox_box hs n.val))))))

theorem State.take_checked {g : State} {n c : Nat} (hv : g.served n = true) (hc : g.frontStatus n = some c) :
    g.take n = g.finish n c 0 0 0 [] := ite_eq_of_true hv (by rw [hc])

theorem State.take_waits {g : State} {n : Nat} (h : g.served n = false ∨ g.frontStatus n = none) : g.take n = g :=
  h.elim (fun h => ite_eq_of_false h rfl) fun h => (ite_congr rfl (fun _hs => by rw [h]) fun _hs => rfl).trans (ite_self g)

theorem State.putOwner_one {s : State} {n : Nat} (h : (s.box n).owner ≠ 1) : s.putOwner n 1 = s.handOver n := if_neg h

theorem State.putOwner_zero {s : State} {n : Nat} (h : (s.box n).owner = 2) :
    s.putOwner n 0 = s.setBox n { s.box n with owner := 0 } :=
  (if_neg (h ▸ by decide)).trans (if_pos (decide_eq_true h))

theorem exec_handOver {s : State} (hs : Sound s) (hb : s.barOpen = true) {n : Fin 64} (h : (s.box n.val).owner ≠ 1) :
    exec (.ownerWrite n 1 []) s = .next (s.handOver n.val) :=
  (exec_ownerWrite hs hb h 1).trans (congrArg _ (State.putOwner_one h))

/-- Settles O9: an OWNER write leaves the header as it was, so it is the hand-over or the return; a mailbox of the device counts it. -/
theorem ownerWriteHandsOver : Obligations.OwnerWriteHandsOver := fun s n hs hb =>
  ⟨fun h => by
      intro g
      exact ⟨fun hv c hc => (exec_handOver hs hb h).trans (congrArg Host.Outcome.next (State.take_checked (g := g) hv hc)),
        fun hv => (exec_handOver hs hb h).trans (congrArg Host.Outcome.next (State.take_waits (g := g) hv))⟩,
    fun h => (exec_ownerWrite hs hb (h ▸ by decide) 0).trans (congrArg Host.Outcome.next (State.putOwner_zero h)),
    fun v h => congrArg Host.Outcome.next (ite_eq_of_true hb (State.mboxWrite_owned 0 rfl h))⟩

end Sys2Proof.Machine
end

section
/-!
PROOFS. Writes to the payload of a mailbox.
-/
namespace Sys2Proof.Machine
set_option Elab.async false

/-- A store past the header finds the header as it was. -/
theorem Mbox.header_kept (b : Mbox) {off n : Nat} (f : Nat → Byte) (h : 32 ≤ off) :
    (List.range 32).map (fun o => if off ≤ o && o < off + n then f o else b.header.getD o 0) = b.header :=
  List.map_congr_left fun _k ho => if_neg fun hc =>
    Nat.not_lt.2 h (Nat.lt_of_le_of_lt (of_decide_eq_true (Bool.and_eq_true_iff.1 hc).1) (List.mem_range.1 ho))

/-- The mailbox with the header words read from their bytes, and a payload. -/
noncomputable def Mbox.withHeader (b : Mbox) (h : List Byte) (pay : Mem) : Mbox :=
  let w (i : Nat) : Word32 := BitVec.ofNat 32 (leNat ((h.drop (4 * i)).take 4))
  ⟨b.owner, w 1, w 2, w 3, w 4, w 5, w 6, w 7, pay⟩

/-- Bytes stored past the header stand in the payload. -/
theorem Mbox.store_payload (b : Mbox) {off : Nat} (data : List Byte) (h : 32 ≤ off) :
    b.store off data = { b with payload := b.payload.writeN (off - 32) data } :=
  have hk : 32 - min 32 off = 0 := (congrArg (fun x => 32 - x) (Nat.min_eq_left h)).trans (Nat.sub_self 32)
  (congr (congrArg b.withHeader (b.header_kept _ h)) (congrArg (fun k => b.payload.writeN (off + k - 32) (data.drop k)) hk)).trans
    (b.reread _ ofNat_leNat_natLe _)

theorem State.mboxWrite_payload {s : State} {n off : Nat} {data : List Byte} (hd : data.isEmpty = false) (h : (s.box n).owner ≠ 1) (ho : 32 ≤ off) :
    s.mboxWrite n off data = s.setBox n { s.box n with payload := (s.box n).payload.writeN (off - 32) data } :=
  ite_eq_of_false hd ((if_neg h).trans ((if_neg (Nat.not_lt.2 (Nat.le_trans (Nat.le_add_left 4 28) ho))).trans
    (congrArg (s.setBox n) (Mbox.store_payload _ data ho))))

theorem mailbox_index {n o : Nat} (ho : o < 4096) : (0x10000 + 4096 * n + o - 0x10000) / 4096 = n :=
  (congrArg (fun x => (x - 0x10000) / 4096) (Nat.add_assoc ..)).trans ((congrArg (fun x => x / 4096) (Nat.add_sub_cancel_left ..)).trans
    ((Nat.mul_add_div (Nat.succ_pos 4095) n o).trans (congrArg (fun x => n + x) (Nat.div_eq_of_lt ho))))

theorem mailbox_place {n o : Nat} (ho : o < 4096) : (0x10000 + 4096 * n + o) % 4096 = o :=
  (congrArg (fun x => (x + o) % 4096) (Nat.mul_add 4096 16 n).symm).trans ((Nat.mul_add_mod ..).trans (Nat.mod_eq_of_lt ho))

theorem mailbox_below {n : Fin 64} {o : Nat} (ho : o < 4096) : 0x10000 + 4096 * n.val + o < 0x50000 :=
  Nat.add_assoc .. ▸ Nat.add_lt_add_left (Nat.lt_of_lt_of_le (Nat.add_lt_add_left ho _) (Nat.mul_le_mul_left 4096 n.isLt)) 0x10000

/-- A host write within a mailbox (R409). -/
theorem exec_mboxWrite {s : State} (h : s.barOpen = true) (n : Fin 64) {o : Nat} {data : List Byte} (ho : o + data.length ≤ 4096)
    (hd : data ≠ []) : exec (.registerWrite (0x10000 + 4096 * n.val + o) data) s = .next (s.mboxWrite n.val o data) :=
  have hlt : o < 4096 := Nat.lt_of_lt_of_le (Nat.lt_add_of_pos_right (List.length_pos_iff.2 hd)) ho
  have hp := mailbox_below (n := n) hlt
  (guardUnit_true (and_eq_true_of (decide_eq_true (Nat.lt_trans hp (Nat.lt_add_of_pos_right (Nat.succ_pos 0x2FFFF))))
    (decide_eq_true ((mailbox_place hlt).symm ▸ ho))) _).trans
    (congrArg _ (ite_eq_of_true h (ite_eq_of_true (and_eq_true_of (decide_eq_true (Nat.le_trans (Nat.le_add_right ..) (Nat.le_add_right ..)))
      (decide_eq_true hp)) ((congrArg (fun m => s.mboxWrite m _ data) (mailbox_index hlt)).trans
        (congrArg (fun o => s.mboxWrite n.val o data) (mailbox_place hlt))))))

/-- Settles O11: the range is one mailbox, past its header, whose OWNER decides. -/
theorem mailboxWritesLand : Obligations.MailboxWritesLand := fun _s n _o _data h ho hn hd =>
  have he := List.isEmpty_eq_false_iff.2 hd
  ⟨fun hw => (exec_mboxWrite h n hn hd).trans (congrArg _ (State.mboxWrite_payload he hw ho)),
    fun hw => (exec_mboxWrite h n hn hd).trans (congrArg _ (State.mboxWrite_owned _ he hw))⟩

end Sys2Proof.Machine
end

section
/-!
PROOFS. Resets, sequence lengths, HALT notices and the event log.
-/
namespace Sys2Proof.Machine
set_option Elab.async false

/- ### Resets -/

/-- Settles O15: each event and command answers its reset by definition, the commands as their rule wants them. -/
theorem resetEventsComplete : Obligations.ResetEventsComplete := fun _s =>
  ⟨fun _t => rfl, fun _t => rfl, fun _t h => Eq.symm (next_then h), fun _n _bs h hl => next_serve_sized h hl rfl,
    fun _n _bs h hl => next_serveG1_sized h hl rfl,
    fun _t hp hs => Eq.symm (next_then (and_eq_true_of (and_eq_true_of hp rfl) (congrArg not hs)))⟩

/- ### Lengths of sequences -/

/-- The count of a lengths command and the end of its range pass their checks. -/
theorem lengths_ok {a b m : Nat} (h1 : 1 ≤ b) (h2 : b ≤ 254) (h3 : a + b ≤ m) : (decide (b = 0) || decide (254 < b) || decide (m < a + b)) = false :=
  or_eq_false_of (or_eq_false_of (decide_eq_false (Nat.ne_of_gt h1)) (not_lt_false h2)) (not_lt_false h3)

theorem place_eq (v k : Nat) : place v k = v * 2 ^ k := Nat.shiftLeft_eq v k

theorem place_b2n (b : Bool) (k : Nat) : place (b2n b) k = if b then 2 ^ k else 0 := by
  cases b with
  | false => exact Nat.zero_shiftLeft k
  | true => exact Nat.one_shiftLeft k

theorem Lens.words_eq (l : Lens) : l.words = [l.prov * 2 ^ 32 + l.committed, (if l.isOpen then 2 ^ 32 else 0) + l.maxlen] :=
  congr (congrArg (fun a b => [a + l.committed, b + l.maxlen]) (place_eq ..)) (place_b2n ..)

theorem Lens.g1Entry_eq (l : Lens) :
    l.g1Entry = (if l.isOpen then 2 ^ 48 else 0) + min l.maxlen 0xFFFFFF * 2 ^ 24 + min l.committed 0xFFFFFF :=
  congr (congrArg (fun a b => a + b + min l.committed 0xFFFFFF) (place_b2n ..)) (place_eq ..)

theorem State.lengthWords_eq (s : State) (first cnt : Nat) : (List.range cnt).flatMap (fun i => (s.lens (first + i)).words) =
    (List.range cnt).flatMap (fun i => [(s.lens (first + i)).prov * 2 ^ 32 + (s.lens (first + i)).committed,
      (if (s.lens (first + i)).isOpen then 2 ^ 32 else 0) + (s.lens (first + i)).maxlen]) :=
  congrArg (fun f => (List.range cnt).flatMap f) (funext fun _i => Lens.words_eq _)

/-- Settles O26: the checks of the count and the table's end pass, and each entry is as Table 7.2 gives it. -/
theorem sequenceLengthsAreTable72 : Obligations.SequenceLengthsAreTable72 := by
  intro s n bs
  constructor
  · intro h hl first cnt h1 h2 h3
    exact next_serve_sized h hl (ite_eq_of_false (lengths_ok h1 h2 h3) (congrArg (s.okWords n.val) (s.lengthWords_eq _ _)))
  · intro h hl first cnt h1 h2 h3 ls
    exact next_serveG1_sized h hl (ite_eq_of_false (lengths_ok h1 h2 h3)
      (congrArg (fun f => s.reply n.val stOk _ (bytes64 (ls.map f)) 0) (funext Lens.g1Entry_eq)))

/- ### Halts -/

/-- Settles O34: the branches of the two notices for a member's halt. -/
theorem haltNoticesPauseMember : Obligations.HaltNoticesPauseMember := fun _s _m _t hm hn =>
  ⟨Eq.symm (next_else (or_eq_false_of (congrArg not hm) (decide_eq_false (Nat.not_le.2 hn)))),
    fun hh he => congrArg _ (ite_eq_of_false (or_eq_false_of (congrArg not hm) (congrArg not hh)) (if_pos (List.isEmpty_iff.2 he))),
    fun hh he => congrArg _ (ite_eq_of_false (or_eq_false_of (congrArg not hm) (congrArg not hh)) (if_neg (mt List.isEmpty_iff.1 he)))⟩

/- ### The event log -/

/-- The log with a record added: the latest 16,384 in order. -/
noncomputable def latest (xs : List EvRec) (r : EvRec) : List EvRec := if (xs ++ [r]).length ≤ 16384 then xs ++ [r] else (xs ++ [r]).drop 1

theorem latest_of_lt {xs : List EvRec} (r : EvRec) (h : xs.length < 16384) : latest xs r = xs ++ [r] :=
  if_pos (List.length_append.symm ▸ h)

theorem latest_of_full {xs : List EvRec} (r : EvRec) (h : xs.length = 16384) : latest xs r = xs.drop 1 ++ [r] :=
  (if_neg (Nat.not_le.2 (Nat.le_of_eq ((congrArg (fun x => x + 1) h.symm).trans (List.length_append (bs := [r])).symm)))).trans
    (List.drop_append_of_le_length (h.symm ▸ Nat.le_add_left 1 16383))

theorem latest_spec {xs : List EvRec} (r : EvRec) (h : xs.length ≤ 16384) : (latest xs r).getLast? = some r ∧ (latest xs r).length ≤ 16384 :=
  (Nat.lt_or_eq_of_le h).elim
    (fun hlt => latest_of_lt r hlt ▸ ⟨List.getLast?_concat, List.length_append.symm ▸ hlt⟩)
    fun he => latest_of_full r he ▸ ⟨List.getLast?_concat,
      Nat.le_of_eq (List.length_append.trans (congrArg (fun x => x + 1) (List.length_drop.trans (congrArg (fun x => x - 1) he))))⟩

/-- Settles O18: the record is the last of the latest 16,384, and its source's number rises. -/
theorem eventsAreRecorded : Obligations.EventsAreRecorded :=
  ⟨fun s _kind _index _code _d0 _d1 _hi h => by
    intro t r
    exact ⟨rfl, rfl, (latest_spec r h).1, (latest_spec r h).2, fun hlt => latest_of_lt r hlt, fun he => latest_of_full r he,
      (Table.get_set s.ev.seqs _ _ _).trans (if_pos rfl), fun _k hk => (Table.get_set s.ev.seqs _ _ _).trans (if_neg hk)⟩, rfl, fun _k => rfl⟩

end Sys2Proof.Machine
end

section
/-!
PROOFS. The test access port.
-/
namespace Sys2Proof.Machine
set_option Elab.async false

/- ### The test port -/

/-- The state with another instruction in the test port. -/
noncomputable def State.setIr (s : State) (i : Config.TapIns) : State := { s with tap := { s.tap with ir := i } }

/-- What holds with an instruction put in holds where it is in. -/
theorem State.of_ir (P : State → Prop) {s : State} {i : Config.TapIns} (h : s.tap.ir = i) (hp : P (s.setIr i)) : P s :=
  (congrArg (fun j => P (s.setIr j)) h).mpr hp

theorem State.shiftDr_bypass {s : State} (b : Bool) (bs : List Bool) (h : s.tap.ir = .bypass) :
    s.tapShiftDr (b :: bs) = s.emit (.tdo (false :: (b :: bs).dropLast)) :=
  (State.of_ir (fun s => s.tapShiftDr (b :: bs) = s.emit (.tdo (false :: (b :: bs).take bs.length))) h rfl).trans
    (congrArg (fun l => s.emit (.tdo (false :: l))) (List.dropLast_eq_take (l := b :: bs)).symm)

theorem State.shiftDr_idcode {s : State} {bs : List Bool} (h : s.tap.ir = .idcode) (hl : bs.length = 32) :
    s.tapShiftDr bs = s.emit (.tdo ((List.range 32).map (fun i => tapIdWord.testBit i))) :=
  (State.of_ir (fun s => s.tapShiftDr bs = s.emit (.tdo (((List.range 32).map (fun i => tapIdWord.testBit i) ++ bs).take bs.length))) h rfl).trans
    (congrArg (fun l => s.emit (.tdo l)) (List.take_left' ((List.length_map _).trans (List.length_range.trans hl.symm))))

/-- The boundary register after a shift with an instruction put in that selects it. -/
theorem State.shiftDr_boundary (s : State) (bs : List Bool) (i : Config.TapIns) : i ≠ .idcode → i ≠ .bypass →
    ((s.setIr i).tapShiftDr bs).tap = { s.tap with
      ir := i, dr := ((s.setIr i).tapCapture ++ bs).drop bs.length,
      pins := if takesPins i then ((s.setIr i).tapCapture ++ bs).drop bs.length else s.tap.pins } := by
  induction i with
  | idcode => exact fun h => absurd rfl h
  | bypass => exact fun _hi h => absurd rfl h
  | _ => exact fun _hi _hb => rfl

/-- Settles O60: each shift by the register that the instruction selects. -/
theorem testPortShifts : Obligations.TestPortShifts := fun s =>
  ⟨rfl, fun code => ⟨s.tapShiftIr code, rfl, rfl,
      fun h => ⟨congrArg (fun o : Option Config.TapIns => o.getD .bypass) h, congrArg (fun o : Option Config.TapIns => takesPins (o.getD .bypass)) h,
        congrArg (fun o : Option Config.TapIns => if takesPins (o.getD .bypass) then s.tap.dr else []) h⟩,
      fun _i h => ⟨congrArg (fun o : Option Config.TapIns => o.getD .bypass) h, congrArg (fun o : Option Config.TapIns => takesPins (o.getD .bypass)) h,
        congrArg (fun o : Option Config.TapIns => if takesPins (o.getD .bypass) then s.tap.dr else []) h⟩⟩,
    fun b bs h => congrArg Host.Outcome.next (State.shiftDr_bypass b bs h),
    fun _bs h hl => congrArg Host.Outcome.next (State.shiftDr_idcode h hl),
    fun bs h1 h2 => ⟨s.tapShiftDr bs, rfl, have e := s.shiftDr_boundary bs s.tap.ir h1 h2
      ⟨(congrArg Tap.pins e :).trans (congrArg (fun d => if takesPins s.tap.ir then d else s.tap.pins) (congrArg Tap.dr e).symm),
        (congrArg Tap.ir e :), (congrArg Tap.dr e :)⟩⟩⟩

end Sys2Proof.Machine
end

section
/-!
PROOFS. STEP_COMMIT and STEP_ABORT.
-/
namespace Sys2Proof.Machine
set_option Elab.async false

/- ### Notices to every member -/

/-- The state with `o` sent. -/
noncomputable def State.sent (s : State) (o : List Out) : State := { s with out := o }

theorem State.foldl_emit (f : Nat → Out) (l : List Nat) : ∀ s : State,
    l.foldl (fun s m => s.emit (f m)) s = s.sent (s.out ++ l.map f) := by
  induction l with
  | nil => exact fun s => congrArg s.sent (List.append_nil s.out).symm
  | cons m l ih => exact fun s => (ih (s.emit (f m))).trans (congrArg s.sent (List.append_assoc s.out [f m] (l.map f)))

/-- The state with another record of the lead's commit. -/
noncomputable def State.withLead (s : State) (l : Lead) : State := { s with lead := l }

theorem State.prepareAll_eq (s : State) (n e : Nat) (cs : List (Nat × Nat)) : s.prepareAll n e cs =
    ((s.withLead { s.lead with counts := cs, votes := [], acks := [], decided := none, commitAt := s.now }).await n .commit [] [] [e]).sent
      (s.out ++ s.members.map (fun m => Out.notice "PREPARE" m (e :: cs.flatMap (fun c : Nat × Nat => [c.1, c.2])))) :=
  State.foldl_emit _ _ _

/- ### STEP_COMMIT and STEP_ABORT -/

theorem State.stepCommit_refused {s : State} {e : Nat} {cs : List (Nat × Nat)} {c : Nat} (n : Nat) (h : s.commitRefuse e cs = some c) :
    s.stepCommit n e cs = s.reply n c 0 [] 0 := by
  unfold State.stepCommit
  rw [h]
  rfl

theorem State.stepCommit_taken {s : State} {e : Nat} {cs : List (Nat × Nat)} (n : Nat) (h : s.commitRefuse e cs = none) :
    s.stepCommit n e cs = s.prepareAll n e cs := by
  unfold State.stepCommit
  rw [h]

theorem State.stepAbort_taken {s : State} (n : Nat) (h : s.ep.st = .running ∨ s.ep.st = .done) :
    s.stepAbort n s.ep.next = (s.await n .abort [] [] [s.ep.next]).raiseKnell 0x0A 0 4 n :=
  ite_eq_of_false (h.elim (congrArg (fun x => x != EpSt.running && x != EpSt.done)) (congrArg (fun x => x != EpSt.running && x != EpSt.done))) (if_neg (not_not_intro rfl))

theorem ne_and_false {m n : Nat} {b : Bool} (h : m = n) : (decide (m ≠ n) && b) = false :=
  congrArg (fun x => x && b) (decide_eq_false (not_not_intro h))

/-- Settles O28: each command reduces to its operation, and the notices of PREPARE are one fold over the members. -/
theorem stepCommitAndAbort : Obligations.StepCommitAndAbort :=
  ⟨fun _s _n _t _bs h hr hf hb => next_serve h (ite_eq_of_false hr (ite_eq_of_false (or_eq_false_of (congrArg not hf) (decide_eq_false (not_not_intro hb))) rfl)),
   fun _s _n _t _bs h hl => next_serveG1 h (if_neg (not_not_intro hl)),
   fun s n e cs => ⟨fun h => ⟨_, (State.stepCommit_taken n h).trans (s.prepareAll_eq n e cs), rfl, rfl, rfl, rfl, rfl,
     ⟨_, List.mem_append_right _ (List.mem_singleton_self _), rfl, rfl⟩, rfl⟩, fun _c h => State.stepCommit_refused n h⟩,
   fun _s _n _t _bs h hl hs he => next_serve h (ite_eq_of_false (ne_and_false hl) ((congrArg _ he).trans (State.stepAbort_taken _ hs))),
   fun _s _n _t _bs h hl hs => next_serveG1 h (ite_eq_of_false (ne_and_false hl) (State.stepAbort_taken _ hs))⟩

end Sys2Proof.Machine
end

section
/-!
PROOFS. Votes and acknowledgements at the lead.
-/
namespace Sys2Proof.Machine
set_option Elab.async false

/- ### The lead of a commit -/

/-- The state with one more vote. -/
noncomputable def State.withVote (s : State) (m : Nat) (ok : Bool) : State :=
  s.withLead { s.lead with votes := s.lead.votes ++ [(m, ok)] }

theorem State.sendDecision_eq (s : State) (e : Nat) (commit : Bool) : s.sendDecision e commit =
    (s.withLead { s.lead with decided := some (e, commit) }).sent (s.out ++ s.members.map fun m => .notice "DECISION" m [e, b2n commit]) :=
  State.foldl_emit _ _ _

theorem length_snoc_lt {α : Type} {l : List α} {x : α} {n : Nat} (h : l.length + 1 < n) : (l ++ [x]).length < n :=
  List.length_append.symm ▸ h

theorem length_snoc_not_lt {α : Type} {l : List α} {x : α} {n : Nat} (h : n ≤ l.length + 1) : ¬ (l ++ [x]).length < n :=
  Nat.not_lt.2 (List.length_append.symm ▸ h)

theorem match_job {o : Option Job} {j : Job} (x : State) (f : Job → State) :
    o = some j → (match o with | none => x | some j => f j) = f j := fun h => h ▸ rfl

/-- What a vote does at the lead while job `j` is the commit. -/
noncomputable def State.voteFor (m epoch : Nat) (ok : Bool) (s : State) (j : Job) : State :=
  if !s.isLead || s.lead.decided.isSome || j.args.getD 0 0 ≠ epoch || s.memberCount ≤ m ||
      s.lead.votes.any (fun v => v.1 == m) then s
  else
    let s := { s with lead := { s.lead with votes := s.lead.votes ++ [(m, ok)] } }
    if !ok then (s.sendDecision epoch false).endCommit stPoisoned 0
    else if s.lead.votes.length < s.memberCount then s
    else s.sendDecision epoch true

/-- What the first refusal does. -/
noncomputable def State.voteAgainst (m epoch : Nat) (ok : Bool) (s : State) (_j : Job) : State :=
  let s := { s with lead := { s.lead with votes := s.lead.votes ++ [(m, ok)] } }
  (s.sendDecision epoch false).endCommit stPoisoned 0

/-- What a vote in favour does. -/
noncomputable def State.voteInFavour (m epoch : Nat) (ok : Bool) (s : State) (_j : Job) : State :=
  let s := { s with lead := { s.lead with votes := s.lead.votes ++ [(m, ok)] } }
  if s.lead.votes.length < s.memberCount then s
  else s.sendDecision epoch true

/-- A vote counts when it is the first of a member for the commit's epoch. -/
theorem exec_vote {s : State} {j : Job} {m e : Nat} (ok : Bool) (hj : s.commitJob = some j) (hl : s.isLead = true)
    (hd : s.lead.decided = none) (he : j.args.getD 0 0 = e) (hm : m < s.memberCount) (hv : ∀ v ∈ s.lead.votes, v.1 ≠ m) {r : State}
    (hr : (if !ok then State.voteAgainst m e ok s j else State.voteInFavour m e ok s j) = r) : exec (.vote m e ok) s = .next r :=
  have hc : State.voteFor m e ok s j = r :=
    ite_eq_of_false (x := s) (y := if !ok then State.voteAgainst m e ok s j else State.voteInFavour m e ok s j)
      (or_eq_false_of (or_eq_false_of (or_eq_false_of (or_eq_false_of (congrArg not hl) (congrArg Option.isSome hd))
      (decide_eq_false (not_not_intro he))) (decide_eq_false (Nat.not_le.2 hm))) (List.any_eq_false.2 fun x hx => mt beq_iff_eq.1 (hv x hx))) hr
  (congrArg Host.Outcome.next ((match_job s (State.voteFor m e ok s) hj).trans hc) :)

theorem State.voteInFavour_waits {m e : Nat} {ok : Bool} (s : State) {j : Job} (h : s.lead.votes.length + 1 < s.memberCount) :
    State.voteInFavour m e ok s j = s.withVote m ok :=
  ite_then (x := s.withVote m ok) (y := (s.withVote m ok).sendDecision e true) (length_snoc_lt h)

/-- The last vote in favour decides. -/
theorem State.voteInFavour_decides {m e : Nat} {ok : Bool} (s : State) {j : Job} (h : s.memberCount ≤ s.lead.votes.length + 1) :
    State.voteInFavour m e ok s j = (s.withVote m ok).sendDecision e true :=
  ite_else (x := s.withVote m ok) (y := (s.withVote m ok).sendDecision e true) (length_snoc_not_lt h)

/-- What an acknowledgement that counts does. -/
noncomputable def State.ackCounted (m _epoch : Nat) (s : State) : State :=
  let s := { s with lead := { s.lead with acks := s.lead.acks ++ [m] } }
  if s.lead.acks.length < s.memberCount then s else s.endCommit stOk 0

/-- An acknowledgement counts when it is the first of a member for a COMMIT. -/
theorem exec_decisionAck {s : State} {m e : Nat} (hl : s.isLead = true) (hd : s.lead.decided = some (e, true))
    (hm : m < s.memberCount) (ha : m ∉ s.lead.acks) {r : State} (hr : State.ackCounted m e s = r) : exec (.decisionAck m e) s = .next r :=
  (congrArg Host.Outcome.next (ite_eq_of_false (x := s) (y := State.ackCounted m e s) (or_eq_false_of (or_eq_false_of (or_eq_false_of (congrArg not hl) (bne_eq_false_iff_eq.2 hd))
    (decide_eq_false (Nat.not_le.2 hm))) (Bool.eq_false_iff.2 (mt List.contains_iff_mem.1 ha))) hr) :)

/-- What the limit of job `j` does. -/
noncomputable def State.limitReached (s : State) (j : Job) : State :=
  if s.lead.decided.isSome || !s.isLead || s.now - s.lead.commitAt < s.commitLimit then s
  else
    let s := { s with lead := { s.lead with decided := some (j.args.getD 0 0, false) } }
    (s.endCommit stTimeout 0).raiseKnell 0x08 0 0 0

/-- What the limit does to a commit whose vote is missing. -/
noncomputable def State.voteMissing (s : State) (j : Job) : State :=
  let s := { s with lead := { s.lead with decided := some (j.args.getD 0 0, false) } }
  (s.endCommit stTimeout 0).raiseKnell 0x08 0 0 0

theorem State.limitReached_missing {s : State} (j : Job) (hl : s.isLead = true) (hd : s.lead.decided = none)
    (ht : s.commitLimit ≤ s.now - s.lead.commitAt) : s.limitReached j = s.voteMissing j :=
  ite_eq_of_false (x := s) (y := s.voteMissing j) (or_eq_false_of (or_eq_false_of (congrArg Option.isSome hd) (congrArg not hl)) (not_lt_false ht)) rfl

/-- Settles O41: each notice takes the branch of its row that its premises pick, a decision is one fold over the members. -/
theorem leadDecidesByVotes : Obligations.LeadDecidesByVotes := fun s =>
  ⟨fun j hj hl => ⟨fun m e ok hd he hm hv => by
      intro v
      exact ⟨fun h => exec_vote ok hj hl hd he hm hv (if_pos (congrArg not h)),
        fun h hlt => exec_vote ok hj hl hd he hm hv (ite_eq_of_false (congrArg not h) (s.voteInFavour_waits hlt)),
        fun h _hv hle => ⟨_, exec_vote ok hj hl hd he hm hv (ite_eq_of_false (congrArg not h)
            ((s.voteInFavour_decides hle).trans (State.sendDecision_eq ..))), rfl, rfl, rfl⟩⟩,
    fun m e hd hm ha => by
      intro v
      exact ⟨fun hlt => exec_decisionAck hl hd hm ha (ite_then (x := v) (y := v.endCommit stOk 0) (length_snoc_lt hlt) :),
        fun hle => exec_decisionAck hl hd hm ha (ite_else (x := v) (y := v.endCommit stOk 0) (length_snoc_not_lt hle) :)⟩,
    fun t hd ht => (congrArg Host.Outcome.next ((match_job (s.at t) (s.at t).limitReached hj).trans (State.limitReached_missing j hl hd ht)) :)⟩,
  fun _t _cs hs hp ht => Eq.symm (next_then (and_eq_true_of (and_eq_true_of (decide_eq_true hs)
    ((congrArg (Option.any fun x : Nat × List (Nat × Nat) => x.1 == s.ep.next) hp).trans (decide_eq_true rfl))) (decide_eq_true ht)))⟩

end Sys2Proof.Machine
end

section
/-!
PROOFS. EVENT_LOG_READ.
-/
namespace Sys2Proof.Machine
set_option Elab.async false

/- ### Reading the event log -/

/-- Reading for all sources takes the first records. -/
theorem pickRecs_snd (l : List EvRec) : ∀ m p, (pickRecs (fun _e => true) m p l).map Prod.snd = l.take m := by
  induction l with
  | nil => exact fun m _p => (List.take_nil (i := m)).symm
  | cons e l ih =>
    intro m
    induction m with
    | zero => exact fun _p => rfl
    | succ m _ => exact fun p => congrArg (List.cons e) (ih m (p + 1))

theorem getLast?_map_cons {α β : Type} (f : α → β) (d : β) (x : α) (l : List α) :
    ((x :: l).getLast?.map f).getD d = (l.getLast?.map f).getD (f x) :=
  (congrArg (fun o => (Option.map f o).getD d) List.getLast?_cons).trans (Option.getD_map f x _).symm

/-- With at least `m` records left, the last of them read stands `m - 1` places on. -/
theorem pickRecs_last (l : List EvRec) : ∀ m p d, m ≤ l.length → (m = 0 → d = p) →
    ((pickRecs (fun _e => true) m p l).getLast?.map (fun e => e.1 + 1)).getD d = p + m := by
  induction l with
  | nil => exact fun m p d hm hd => Nat.le_zero.1 hm ▸ hd (Nat.le_zero.1 hm)
  | cons e l ih =>
    intro m
    induction m with
    | zero => exact fun _p _d _hm hd => hd rfl
    | succ m _ => exact fun p d hm _hd => (getLast?_map_cons _ d (p, e) _).trans ((ih m (p + 1) (p + 1) (Nat.le_of_succ_le_succ hm) fun _e => rfl).trans
        (Nat.add_right_comm p 1 m))

theorem min_lt_left {m n : Nat} : min m n < m ↔ n < m :=
  ⟨fun h => Nat.not_le.1 fun hle => Nat.not_lt.2 (Nat.le_min.2 ⟨Nat.le_refl m, hle⟩) h, Nat.lt_of_le_of_lt (Nat.min_le_right m n)⟩

theorem State.readLog_all (s : State) {c m : Nat} (hm : 1 ≤ m) :
    let old := s.ev.next - s.ev.recs.length
    let rest := s.ev.recs.drop (max c old - old)
    s.readLog c m (fun _e => true) = (if rest.length < m then s.ev.next else max c old + m, rest.take m, decide (c < old)) := by
  intro old rest
  have hs : (pickRecs (fun _e => true) m (max c old) rest).map Prod.snd = rest.take m := pickRecs_snd ..
  have hl : (pickRecs (fun _e => true) m (max c old) rest).length = min m rest.length :=
    (List.length_map Prod.snd).symm.trans ((congrArg List.length hs).trans List.length_take)
  refine Prod.ext ?_ (Prod.ext hs rfl)
  refine (ite_congr (propext (hl ▸ min_lt_left)) (fun _h => rfl) fun h => ?_ : (if _ then _ else _) = _)
  exact pickRecs_last rest m _ _ (Nat.not_lt.1 h) fun h0 => absurd h0 (Nat.ne_of_gt hm)

theorem maxrec_ok {v m : Nat} (h1 : 1 ≤ v) (h2 : v ≤ m) : (decide (v < 1) || decide (m < v)) = false :=
  or_eq_false_of (not_lt_false h1) (not_lt_false h2)

/-- Settles O20: each form reads by definition, and reading for all sources keeps every record (`State.readLog_all`). -/
theorem eventLogIsRead : Obligations.EventLogIsRead :=
  ⟨fun s n bs h hl => ⟨fun hb h1 h2 => by
       intro r
       exact next_serve_sized h hl (ite_eq_of_false hb (ite_eq_of_false (maxrec_ok h1 h2) rfl)),
     fun hb hg e he => next_serve_sized h hl (ite_eq_of_true hb (ite_eq_of_false (congrArg not hg) (by rw [he]; rfl)))⟩,
   fun s n bs h hl h1 h2 => by
     intro r
     exact next_serveG1_sized h hl (ite_eq_of_false (maxrec_ok h1 h2) rfl),
   fun s c m hm h => s.readLog_all hm⟩

end Sys2Proof.Machine
end

section
/-!
PROOFS. Which commands stop.
-/
namespace Sys2Proof.Machine
set_option Elab.async false

/- ### What a command answers -/

/-- An outcome of a command that is well formed or not: a next state, or the stop at an absent unit. -/
def Answers : Host.Outcome State Fault Refusal → Bool → Prop
  | .next _, wf => wf = true
  | .fault f, wf => wf = false ∧ f = .noSuchUnit
  | .refused _, _ => False

theorem answers_guardUnit (b : Bool) (t : State) : Answers (guardUnit b t) b :=
  match b with
  | true => rfl
  | false => ⟨rfl, rfl⟩

set_option tactic.hygienic false in
/-- Twenty-two commands name a unit and are guarded by its existence; every other answers a next state by definition. -/
theorem exec_answers (i : Instr) : ∀ s, Answers (exec i s) i.wf := by
  induction i with
  | registerWrite | bar2Read | bar2Write | calibrate | trim | burstRewrite | mirrorWrite | beatEdge | beatMiss | longWindow
  | granuleGrant | dramRead | scrubRead | rowSpared | frameRetireCopy | holdExitComplete | thermtrip | romCheck | dramTrain
  | linkTrain | ucieRetrainComplete | msixTableWrite => exact fun s => answers_guardUnit _ _
  | _ => exact fun s => @rfl Bool true

/-- Settles O2, by what every command answers (`exec_answers`). -/
theorem stopsOnlyOnAbsentUnits : Obligations.StopsOnlyOnAbsentUnits := by
  intro i s
  have h := exec_answers i s
  generalize exec i s = o at h ⊢
  cases o with
  | next t => exact ⟨fun _hw => ⟨t, rfl⟩, fun hf => absurd (hf.symm.trans h) Bool.false_ne_true⟩
  | fault f => exact ⟨fun ht => absurd (h.1.symm.trans ht) Bool.false_ne_true, fun _hw => congrArg _ h.2⟩
  | refused r => exact h.elim

end Sys2Proof.Machine
end
